-- ==== Sys2Proof/Word.lean ====
section
/-! DEFINITION. The word types of the block: every register, command byte, data byte and expander byte is 8 bits,
unsigned; the bus address is 7 bits (R6, R22). -/

namespace Sys2Proof

/-- An 8-bit register, command, data or expander byte (R6). -/
abbrev Byte := BitVec 8

/-- The 7-bit peripheral address of the bus (R22, R50). -/
abbrev BusAddr := BitVec 7

/-- `trunc8(x) = x mod 256` (R8). -/
def trunc8 (x : Nat) : Byte := BitVec.ofNat 8 x

end Sys2Proof
end

