-- ==== Sys2Proof/Config.lean ====
section
/-! DEFINITION. What is fixed for a model instance: the constant tables of R74, R75, R35 and R252, the platform
parameters of R5, the shape of an answer of the transport, and the free values (opaque constants: nothing in Lean
can evaluate them).

Values marked PRESUMED are the HD44780 values the spec itself marks `[from general knowledge, not in source]`
(93_implementation_defined.md I1; log entry 11). -/

namespace Sys2Proof

/-- The kinds of a failed bus operation (R180). -/
inductive ErrKind where
  | unreachable
  | nack
  | timeout
deriving DecidableEq, Repr, Inhabited

/-- An answer of the transport to a `MemWrite` or a `BusInit`: `Ack` (for `BusInit`, `Ok`) or `Err(kind)`
(R180, R181, R39). -/
inductive Answer where
  | ack
  | err (kind : ErrKind)
deriving DecidableEq, Repr, Inhabited

/-- One draw of the environment for one bus operation (R198): the transport's answer and, for a write answered
`Err`, whether the byte reached the expander's register all the same (R194, D21). `taken` says nothing when the
answer is `Ack`. -/
structure BusDraw where
  answer : Answer
  taken  : Bool
deriving DecidableEq, Repr, Inhabited

namespace Config

/-! ### Command bases (R74) -/

/-- R74, from the source (§6). -/
def clearDisplay : Byte := 0x01
/-- R74. PRESUMED (I1). -/
def returnHome : Byte := 0x02
/-- `P_ENTRY_MODE_SET_BASE` (R5, R74): 0x06 taken literally (90_conflicts.md C1, D10). -/
def entryModeSet : Byte := 0x06
/-- R74. PRESUMED (I1). -/
def displayControl : Byte := 0x08
/-- R74. PRESUMED (I1). -/
def cursorShift : Byte := 0x10
/-- R74, from the source (§6). -/
def functionSet : Byte := 0x20
/-- R74, from the source (§8). -/
def setCgramAddr : Byte := 0x40
/-- R74. PRESUMED (I1). -/
def setDdramAddr : Byte := 0x80
/-- R74: the nibble 0x3 in bits 7:4 (begin step 5). -/
def initNibble3 : Byte := 0x30
/-- R74: the nibble 0x2 in bits 7:4 (begin step 6). -/
def initNibble2 : Byte := 0x20

/-! ### Expander bits and flag bits (R71, R75) -/

/-- The enable bit of EXP8 (R71, R75). -/
def enBit : Byte := 0x04
/-- The read/write bit of EXP8, never set (R71, R72, R75). -/
def rwBit : Byte := 0x02
/-- The register-select bit of EXP8 (R71, R75). -/
def rsBit : Byte := 0x01
/-- The backlight bit of EXP8 and the "on" value of register BL (R29, R71, R75). -/
def blBit : Byte := 0x08
/-- CTRL.D (R27, R75). PRESUMED (I1). -/
def displayOn : Byte := 0x04
/-- CTRL.C (R27, R75). PRESUMED (I1). -/
def cursorOn : Byte := 0x02
/-- CTRL.B (R27, R75). PRESUMED (I1). -/
def blinkOn : Byte := 0x01
/-- ENTRY.ID (R28, R75). PRESUMED (I1). -/
def entryLeft : Byte := 0x02
/-- ENTRY.S (R28, R75). PRESUMED (I1). -/
def entryShiftIncrement : Byte := 0x01
/-- R75, R137. PRESUMED (I1). -/
def displayMove : Byte := 0x08
/-- R75, R137. PRESUMED (I1). -/
def moveRight : Byte := 0x04
/-- R75, R137. PRESUMED (I1). -/
def moveLeft : Byte := 0x00
/-- FUNC.DL, never set (R26, R75). PRESUMED (I1). -/
def fn8BitMode : Byte := 0x10
/-- The "off" value of FUNC.DL (R75, R101). PRESUMED (I1). -/
def fn4BitMode : Byte := 0x00
/-- FUNC.N (R26, R75). PRESUMED (I1). -/
def fn2Line : Byte := 0x08
/-- FUNC.F (R26, R75). PRESUMED (I1). -/
def fn5x10Dots : Byte := 0x04

/-! ### The row-offset ROM (R35) -/

/-- `ROW_OFFSET[0..3]`, the DDRAM base of each row; `none` at an index of 4 or more (R35, R59). -/
def rowOffset (row : Nat) : Option Byte :=
  match row with
  | 0 => some 0x00
  | 1 => some 0x40
  | 2 => some 0x14
  | 3 => some 0x54
  | _ => none

/-! ### Delay minima in µs (R252) -/

/-- Enable-high width inside every nibble (R187, R252). -/
def enablePulseUs : Nat := 1
/-- Settle time after enable falls inside every nibble (R187, R252). -/
def settleUs : Nat := 50
/-- After the third 0x3 nibble of begin step 5 (R108, R252). -/
def initThirdUs : Nat := 150
/-- After CLEAR_DISPLAY and RETURN_HOME (R130, R131, R252). -/
def longCommandUs : Nat := 2000
/-- After the first and second 0x3 nibble of begin step 5 (R108, R252). -/
def initRetryUs : Nat := 4500
/-- Begin step 2 (R105, R252). -/
def powerRiseUs : Nat := 40000
/-- Begin step 4 (R107, R252). -/
def initSettleUs : Nat := 1000000

/-- Every delay minimum there is (R252; the operand list of row `T` of the opcode table). -/
def delayMinima : List Nat :=
  [enablePulseUs, settleUs, initThirdUs, longCommandUs, initRetryUs, powerRiseUs, initSettleUs]

/-! ### Open parameters and free values -/

/-- `P_BUS_TIMEOUT_MS` (R5, D5, I5): OPEN in the spec, so it has no value here. -/
opaque busTimeoutMs : Nat

/-- The free draw number `n` of the environment (R198): the answer to a bus operation (R180, R185) and the EXP_OUT
draw of R194, used when `State.script` schedules none. Log entry 4. -/
opaque freeBusDraw : Nat → BusDraw

/-- The free draw of R195 item 4 (D22): whether the nibble of an enable pulse that an `Err` cut short latched, for
the cut at position `n` of the trace. Log entry 13. -/
opaque freeLatch : Nat → Bool

end Config

end Sys2Proof
end

