-- ==== Sys2Proof/Syntax/Operands.lean ====
section
/-! DEFINITION. The operand types of the instructions: the typed operand fields of a request record (R80, D14), the
registers and expressions of the micro-operations (R11, R183, R186), and the mode of a byte transfer (R188). -/

namespace Sys2Proof

/-- The character-cell selector, 1 bit: 0 = 5x8, 1 = 5x10 (R4, R25). -/
inductive CharSize where
  | dots5x8
  | dots5x10
deriving DecidableEq, Repr

/-- The operand of `scroll`, 1 bit: 0 = Left, 1 = Right (R80, R137, D32). -/
inductive ScrollDir where
  | left
  | right
deriving DecidableEq, Repr

/-- The operand `pattern[0..7]` of `defineGlyph`: eight 8-bit bytes (R80, R163). -/
structure Glyph where
  p0 : Byte
  p1 : Byte
  p2 : Byte
  p3 : Byte
  p4 : Byte
  p5 : Byte
  p6 : Byte
  p7 : Byte
deriving DecidableEq, Repr

/-- The pattern bytes in the order they are sent (R163). -/
def Glyph.toList (g : Glyph) : List Byte := [g.p0, g.p1, g.p2, g.p3, g.p4, g.p5, g.p6, g.p7]

/-- The `mode` of a byte transfer: command (RS = 0) or data (RS = 1) (R78, R188). -/
inductive Mode where
  | command
  | data
deriving DecidableEq, Repr

/-- The registers an operand expression of a micro-operation reads (R41, R79, R186). -/
inductive FlagReg where
  | func
  | ctrl
  | entry
  | bl
deriving DecidableEq, Repr

/-- The registers `SET` writes: `X ∈ {CTRL, ENTRY, BL}` (R186). -/
inductive SetReg where
  | ctrl
  | entry
  | bl
deriving DecidableEq, Repr

/-- An 8-bit expression over the state, the operand of `W`, `SET`, `NIBBLE` and `BYTE` (R11, R183, R186). It is
evaluated when the micro-operation that holds it executes (R182), so it is kept as syntax. -/
inductive Expr where
  | lit (v : Byte)                  -- a constant
  | reg (r : FlagReg)               -- `S.FUNC`, `S.CTRL`, `S.ENTRY`, `S.BL`
  | ddramCmd (col row : Byte)       -- `ddram_cmd(col, row)` of R160; reads `S.CFG_ROWS`
  | or (a b : Expr)
  | and (a b : Expr)
  | shl4 (a : Expr)                 -- `trunc8(a << 4)` of R78
deriving DecidableEq, Repr

end Sys2Proof
end

