-- ==== Sys2Proof/Syntax.lean ====
section
/-! DEFINITION. The instruction set: one constructor for each row of spec/opcode_table.json (R81). -/

namespace Sys2Proof

/-- The 15 requests of R80, the four micro-operations of R183–R186 and the two internal primitives of R187, R188. -/
inductive Instr where
  /-- REQ 0x0 (R100). -/
  | init (addr : BusAddr) (cols rows : Byte) (charsize : CharSize)
  /-- REQ 0x1 (R103). -/
  | begin
  /-- REQ 0x2 (R130). -/
  | clear
  /-- REQ 0x3 (R131). -/
  | home
  /-- REQ 0x4 (R132). -/
  | setDisplay (on : Bool)
  /-- REQ 0x5 (R133). -/
  | setCursor (on : Bool)
  /-- REQ 0x6 (R134). -/
  | setBlink (on : Bool)
  /-- REQ 0x7 (R137). -/
  | scroll (dir : ScrollDir)
  /-- REQ 0x8 (R135). -/
  | setEntryDirection (leftToRight : Bool)
  /-- REQ 0x9 (R136). -/
  | setAutoscroll (on : Bool)
  /-- REQ 0xA (R138). -/
  | setBacklight (on : Bool)
  /-- REQ 0xB (R160). -/
  | setCursorPosition (col row : Byte)
  /-- REQ 0xC (R163). -/
  | defineGlyph (slot : BitVec 3) (pattern : Glyph)
  /-- REQ 0xD (R164). -/
  | writeChar (byte : Byte)
  /-- REQ 0xE (R165): any finite byte sequence, the empty one among them. -/
  | writeText (bytes : List Byte)
  /-- Micro-operation `W(x)` (R183). -/
  | w (x : Expr)
  /-- Micro-operation `T(t)`, `t` in µs (R184). -/
  | t (us : Nat)
  /-- Micro-operation `B` (R185). -/
  | b
  /-- Micro-operation `SET(X, e)` (R186). -/
  | set (x : SetReg) (e : Expr)
  /-- Internal primitive `NIBBLE(n)` (R187). -/
  | pulseNibble (n : Expr)
  /-- Internal primitive `BYTE(v, m)` (R188). -/
  | sendByte (v : Expr) (m : Mode)
deriving DecidableEq, Repr

/-- The request codes `REQ[3:0]` of R80; the micro-operations and primitives are no requests (R86). -/
def Instr.reqCode : Instr → Option (BitVec 4)
  | .init _ _ _ _ => some 0x0
  | .begin => some 0x1
  | .clear => some 0x2
  | .home => some 0x3
  | .setDisplay _ => some 0x4
  | .setCursor _ => some 0x5
  | .setBlink _ => some 0x6
  | .scroll _ => some 0x7
  | .setEntryDirection _ => some 0x8
  | .setAutoscroll _ => some 0x9
  | .setBacklight _ => some 0xA
  | .setCursorPosition _ _ => some 0xB
  | .defineGlyph _ _ => some 0xC
  | .writeChar _ => some 0xD
  | .writeText _ => some 0xE
  | .w _ => none
  | .t _ => none
  | .b => none
  | .set _ _ => none
  | .pulseNibble _ => none
  | .sendByte _ _ => none

end Sys2Proof
end

