-- ==== Sys2Proof/WellFormed.lean ====
section
/-! DEFINITION. The static checks on instructions. A request's operand fields have the widths of R80 by their types,
so every request is well formed; the checks are on the operands of the micro-operations and primitives. -/

namespace Sys2Proof

/-- The bits a flag register may have set: R26 (FUNC), R27 (CTRL), R28 (ENTRY), R29 (BL). -/
def FlagReg.legalBits : FlagReg → Byte
  | .func => 0x0C
  | .ctrl => 0x07
  | .entry => 0x03
  | .bl => 0x08

/-- The register a `SET` writes, as one of the flag registers. -/
def SetReg.toFlagReg : SetReg → FlagReg
  | .ctrl => .ctrl
  | .entry => .entry
  | .bl => .bl

/-- A mask that holds every bit the expression's value can have set, given that the flag registers hold only legal
bits (R26–R29). -/
def Expr.mayBits : Expr → Byte
  | .lit v => v
  | .reg r => r.legalBits
  | .ddramCmd _ _ => 0xFF
  | .or a b => a.mayBits ||| b.mayBits
  | .and a b => a.mayBits &&& b.mayBits
  | .shl4 a => a.mayBits <<< 4

/-- The checks, by instruction:
- `W(x)`: "Bit 3 and bit 1 of its value are 0" (R183);
- `T(t)`: `t` is one of the delay minima (R184, R252);
- `SET(X, e)`: the value has only the bits the register holds (R27–R29);
- `NIBBLE(n)`: `n[3:1] = 0` (R187). -/
def Instr.wellFormed : Instr → Bool
  | .init _ _ _ _ => true
  | .begin => true
  | .clear => true
  | .home => true
  | .setDisplay _ => true
  | .setCursor _ => true
  | .setBlink _ => true
  | .scroll _ => true
  | .setEntryDirection _ => true
  | .setAutoscroll _ => true
  | .setBacklight _ => true
  | .setCursorPosition _ _ => true
  | .defineGlyph _ _ => true
  | .writeChar _ => true
  | .writeText _ => true
  | .w x => x.mayBits &&& 0x0A == 0
  | .t us => Config.delayMinima.contains us
  | .b => true
  | .set x e => e.mayBits &&& ~~~ x.toFlagReg.legalBits == 0
  | .pulseNibble n => n.mayBits &&& 0x0E == 0
  | .sendByte _ _ => true

end Sys2Proof
end

