-- ==== Sys2Proof/Decode.lean ====
section
/-! DEFINITION. The encodings, each with its decoder and its encoder:
1. the request record (R80), in the byte form the model fixes for it;
2. the expander byte EXP8 (R71);
3. the LCD command byte CMD8 (R73).

The spec gives a request a 4-bit code and typed operand fields and no byte layout (R80, N14). The layout is the
model's (DESIGN CHOICE, log entry 5): one record is a list of bytes; byte 0 holds `REQ[3:0]` in bits 3:0 and zeros
above; then one byte for each operand field in the order of R80, the field in the low bits and zeros above;
`defineGlyph`'s eight pattern bytes and `writeText`'s bytes follow one by one, and `len` is the number of bytes left.
The micro-operations and primitives have no record: a UOP is "one list element" (R70) of `UPROG`. -/

namespace Sys2Proof

/-- Why a byte string is no request record. -/
inductive Reject where
  /-- No byte at all. -/
  | emptyRecord
  /-- `REQ[3:0] = 0xF`, unassigned (R82). -/
  | unknownRequest
  /-- Operand bytes are missing. -/
  | truncated
  /-- Bytes are left over. -/
  | trailingBytes
  /-- A bit above a field's width is set: the value "cannot be represented" (R80). -/
  | reservedBits
deriving DecidableEq, Repr

/-! ### The request record -/

/-- No operand field. -/
def decodeNone (i : Instr) : List Byte → Except Reject Instr
  | [] => .ok i
  | _ :: _ => .error .trailingBytes

/-- One operand field of at most 8 bits, read by `field`. -/
def decodeOne {α : Type} (field : Byte → Option α) (mk : α → Instr) : List Byte → Except Reject Instr
  | [] => .error .truncated
  | [x] =>
    match field x with
    | some a => .ok (mk a)
    | none => .error .reservedBits
  | _ :: _ :: _ => .error .trailingBytes

/-- A 1-bit field. -/
def fieldBit (x : Byte) : Option Bool :=
  if x = 0x00 then some false else if x = 0x01 then some true else none

/-- `dir[0]` (0 = Left, 1 = Right; D32). -/
def fieldDir (x : Byte) : Option ScrollDir :=
  if x = 0x00 then some .left else if x = 0x01 then some .right else none

/-- `charsize[0]` (0 = 5x8, 1 = 5x10; R25). -/
def fieldCharSize (x : Byte) : Option CharSize :=
  if x = 0x00 then some .dots5x8 else if x = 0x01 then some .dots5x10 else none

/-- `addr[6:0]`. -/
def fieldAddr (x : Byte) : Option BusAddr :=
  if x &&& 0x80 = 0 then some (x.truncate 7) else none

/-- `slot[2:0]`. -/
def fieldSlot (x : Byte) : Option (BitVec 3) :=
  if x &&& 0xF8 = 0 then some (x.truncate 3) else none

/-- `addr[6:0], cols[7:0], rows[7:0], charsize[0]`. -/
def decodeInit : List Byte → Except Reject Instr
  | [a, cols, rows, cs] =>
    match fieldAddr a, fieldCharSize cs with
    | some addr, some charsize => .ok (.init addr cols rows charsize)
    | _, _ => .error .reservedBits
  | _ :: _ :: _ :: _ :: _ :: _ => .error .trailingBytes
  | _ => .error .truncated

/-- `col[7:0], row[7:0]`. -/
def decodePosition : List Byte → Except Reject Instr
  | [col, row] => .ok (.setCursorPosition col row)
  | _ :: _ :: _ :: _ => .error .trailingBytes
  | _ => .error .truncated

/-- `slot[2:0], pattern[0..7][7:0]`. -/
def decodeGlyph : List Byte → Except Reject Instr
  | [s, p0, p1, p2, p3, p4, p5, p6, p7] =>
    match fieldSlot s with
    | some slot => .ok (.defineGlyph slot ⟨p0, p1, p2, p3, p4, p5, p6, p7⟩)
    | none => .error .reservedBits
  | _ :: _ :: _ :: _ :: _ :: _ :: _ :: _ :: _ :: _ :: _ => .error .trailingBytes
  | _ => .error .truncated

/-- The decoder of the operand fields, by request code (R80, R81, R82). -/
def decodeOperands (code : BitVec 4) (ops : List Byte) : Except Reject Instr :=
  match code.toNat with
  | 0x0 => decodeInit ops
  | 0x1 => decodeNone .begin ops
  | 0x2 => decodeNone .clear ops
  | 0x3 => decodeNone .home ops
  | 0x4 => decodeOne fieldBit .setDisplay ops
  | 0x5 => decodeOne fieldBit .setCursor ops
  | 0x6 => decodeOne fieldBit .setBlink ops
  | 0x7 => decodeOne fieldDir .scroll ops
  | 0x8 => decodeOne fieldBit .setEntryDirection ops
  | 0x9 => decodeOne fieldBit .setAutoscroll ops
  | 0xA => decodeOne fieldBit .setBacklight ops
  | 0xB => decodePosition ops
  | 0xC => decodeGlyph ops
  | 0xD => decodeOne some .writeChar ops
  | 0xE => .ok (.writeText ops)
  | _ => .error .unknownRequest

/-- The decoder of request records, total on any bytes. The code is `REQ[3:0]`; code 0xF is rejected by name
whatever follows it (R82). -/
def decode : List Byte → Except Reject Instr
  | [] => .error .emptyRecord
  | c :: ops =>
    if c &&& 0xF0 = 0 then decodeOperands (c.truncate 4) ops else .error .reservedBits

/-- A 1-bit field as a byte. -/
def bitByte (on : Bool) : Byte := if on then 0x01 else 0x00

/-- `dir[0]` as a byte (D32). -/
def ScrollDir.byte : ScrollDir → Byte
  | .left => 0x00
  | .right => 0x01

/-- `charsize[0]` as a byte (R25). -/
def CharSize.byte : CharSize → Byte
  | .dots5x8 => 0x00
  | .dots5x10 => 0x01

/-- The request record of an instruction; `none` for the micro-operations and primitives, which are no requests
(R70, R86). -/
def encode : Instr → Option (List Byte)
  | .init addr cols rows charsize => some [0x00, addr.zeroExtend 8, cols, rows, charsize.byte]
  | .begin => some [0x01]
  | .clear => some [0x02]
  | .home => some [0x03]
  | .setDisplay on => some [0x04, bitByte on]
  | .setCursor on => some [0x05, bitByte on]
  | .setBlink on => some [0x06, bitByte on]
  | .scroll dir => some [0x07, dir.byte]
  | .setEntryDirection ltr => some [0x08, bitByte ltr]
  | .setAutoscroll on => some [0x09, bitByte on]
  | .setBacklight on => some [0x0A, bitByte on]
  | .setCursorPosition col row => some [0x0B, col, row]
  | .defineGlyph slot p => some (0x0C :: slot.zeroExtend 8 :: p.toList)
  | .writeChar byte => some [0x0D, byte]
  | .writeText bytes => some (0x0E :: bytes)
  | .w _ => none
  | .t _ => none
  | .b => none
  | .set _ _ => none
  | .pulseNibble _ => none
  | .sendByte _ _ => none

/-- The number of bytes of a record with this code whose text, if it has one, is empty. -/
def recordLength (code : BitVec 4) : Nat :=
  match code.toNat with
  | 0x0 => 5
  | 0x1 | 0x2 | 0x3 | 0xE | 0xF => 1
  | 0xB => 3
  | 0xC => 10
  | _ => 2

/-- The record whose bits are `w`, numbered from bit 0 of byte 0 upwards, `nbits` of them given and every operand
bit above them 0. -/
def tableRecord (nbits w : Nat) : List Byte :=
  let given := (List.range ((nbits + 7) / 8)).map fun k => BitVec.ofNat 8 (w >>> (8 * k))
  match given with
  | [] => []
  | c :: _ => given ++ List.replicate (recordLength (c.truncate 4) - given.length) 0x00

/-- The instruction the decoder reads from the opcode table's word `w` of `nbits` bits. -/
def decodeTableWord (nbits w : Nat) : Option Instr :=
  match decode (tableRecord nbits w) with
  | .ok i => some i
  | .error _ => none

/-! ### The expander byte EXP8 (R71) -/

/-- The fields of an expander byte (R71). -/
structure Exp8 where
  data : BitVec 4   -- D7..D4, the nibble
  bl   : Bool
  en   : Bool
  rw   : Bool
  rs   : Bool
deriving DecidableEq, Repr

/-- Read an expander byte (R71). -/
def decodeExp8 (v : Byte) : Exp8 :=
  { data := v.extractLsb' 4 4, bl := v.getLsbD 3, en := v.getLsbD 2, rw := v.getLsbD 1, rs := v.getLsbD 0 }

/-- Write an expander byte (R71): the pattern `ddddBERS`. -/
def encodeExp8 (x : Exp8) : Byte :=
  x.data.zeroExtend 8 <<< 4 ||| (if x.bl then Config.blBit else 0) ||| (if x.en then Config.enBit else 0)
    ||| (if x.rw then Config.rwBit else 0) ||| (if x.rs then Config.rsBit else 0)

/-! ### The LCD command byte CMD8 (R73) -/

/-- The command byte classes with their fields (R73). -/
inductive CmdClass where
  | clearDisplay
  | returnHome
  | entryModeSet (id s : Bool)
  | displayControl (d c b : Bool)
  | cursorShift (m r : Bool)
  | functionSet (l n f : Bool)
  | setCgramAddr (a : BitVec 6)
  | setDdramAddr (a : BitVec 7)
deriving DecidableEq, Repr

/-- The class is the position of the highest set bit (R73); 0x00 has none. -/
def decodeCmd8 (v : Byte) : Option CmdClass :=
  if v.getLsbD 7 then some (.setDdramAddr (v.truncate 7))
  else if v.getLsbD 6 then some (.setCgramAddr (v.truncate 6))
  else if v.getLsbD 5 then some (.functionSet (v.getLsbD 4) (v.getLsbD 3) (v.getLsbD 2))
  else if v.getLsbD 4 then some (.cursorShift (v.getLsbD 3) (v.getLsbD 2))
  else if v.getLsbD 3 then some (.displayControl (v.getLsbD 2) (v.getLsbD 1) (v.getLsbD 0))
  else if v.getLsbD 2 then some (.entryModeSet (v.getLsbD 1) (v.getLsbD 0))
  else if v.getLsbD 1 then some .returnHome
  else if v.getLsbD 0 then some .clearDisplay
  else none

/-- The bit of weight `w` if the field is set. -/
def fieldWeight (on : Bool) (w : Byte) : Byte := if on then w else 0x00

/-- The command byte of a class, its don't-care bits 0 (R73, R83). -/
def CmdClass.byte : CmdClass → Byte
  | .clearDisplay => 0x01
  | .returnHome => 0x02
  | .entryModeSet id s => 0x04 ||| fieldWeight id 0x02 ||| fieldWeight s 0x01
  | .displayControl d c b => 0x08 ||| fieldWeight d 0x04 ||| fieldWeight c 0x02 ||| fieldWeight b 0x01
  | .cursorShift m r => 0x10 ||| fieldWeight m 0x08 ||| fieldWeight r 0x04
  | .functionSet l n f => 0x20 ||| fieldWeight l 0x10 ||| fieldWeight n 0x08 ||| fieldWeight f 0x04
  | .setCgramAddr a => 0x40 ||| a.zeroExtend 8
  | .setDdramAddr a => 0x80 ||| a.zeroExtend 8

end Sys2Proof
end

