-- ==== Sys2Proof/Machine/State.lean ====
section
/-! DEFINITION. The state of the block (10_state.md), its reset value (R42), and the reasons a step can stop. -/

namespace Sys2Proof.Machine

/-- A micro-operation, an element of `UPROG` (R11, R33). -/
inductive Uop where
  /-- `W(x)`: one expander write (R183). -/
  | w (x : Expr)
  /-- `T(t)`: a wait of at least `t` µs (R184). -/
  | t (us : Nat)
  /-- `B`: bus acquisition (R185). -/
  | b
  /-- `SET(X, e)`: a flag-register write (R186). -/
  | set (x : SetReg) (e : Expr)
deriving DecidableEq, Repr

/-- `PHASE` (R31). -/
inductive Phase where
  | unconfigured
  | configured
  | ready
deriving DecidableEq, Repr

/-- `LINK` (R38). -/
inductive Link where
  | unknown
  | synced
  | suspect
deriving DecidableEq, Repr

/-- `EXP_OUT`: a byte or `Unknown`, which is a value (R37). -/
inductive ExpOut where
  | unknown
  | known (v : Byte)
deriving DecidableEq, Repr

/-- The info of a TransportError (R211): the kind the transport reported, the index in `UPROG` of the failing
micro-operation, and the byte whose write failed (`none` for `B`). -/
structure TransportInfo where
  kind : ErrKind
  upc  : Nat
  byte : Option Byte
deriving DecidableEq, Repr

/-- The info of a ConfigError: the first zero field in the order cols, rows (R102). -/
inductive ConfigField where
  | cols
  | rows
deriving DecidableEq, Repr

/-- A completion status (R34, R210). -/
inductive Result where
  | ok
  | transportError (info : TransportInfo)
  | configError (field : ConfigField)
deriving DecidableEq, Repr

/-- The numeric code of a result (R210, D29). -/
def Result.code : Result → Nat
  | .ok => 0
  | .transportError _ => 1
  | .configError _ => 2

/-- An event of `TRACE` (R39). -/
inductive Event where
  | accept (req : Instr)
  | busInit (outcome : Answer)
  | write (addr : BusAddr) (byte : Byte) (outcome : Answer)
  | wait (minUs : Nat)
  | complete (result : Result)
deriving DecidableEq, Repr

/-- The reasons of a model-level refusal (R214). -/
inductive RefuseReason where
  | unknownRequest
  | noConfig
  | alreadyConfigured
  | notBegun
deriving DecidableEq, Repr

/-- The registers that can hold `⊥` (R20). -/
inductive RegName where
  | cfgAddr
  | cfgCols
  | cfgRows
  | cfgCharsize
  | func
  | ctrl
  | entry
  | bl
deriving DecidableEq, Repr

/-- Why the machine stops for good. -/
inductive Fault where
  /-- `fault(RowOffsetOutOfTable)` (R161, R214, I4): raised by a `W` whose operand is `ddram_cmd(col, row)` with a
  clamped row of 4 or more, before the write is issued. The source leaves the behaviour undefined. Safe. -/
  | rowOffsetOutOfTable
  /-- `fault(UnwrittenRead)` (R20, R214, I13): raised by a `W` or a `SET` that reads a register holding `⊥`. No run
  from reset reaches it. Safe. -/
  | unwrittenRead (r : RegName)
  /-- The model's own (log entry 9): raised by a step with `BUSY = 1` and `UPC > length(UPROG)`, where no rule of
  R198 applies. No run from reset reaches it. Safe. -/
  | stuckSequencer
deriving DecidableEq, Repr

/-- Why the model gives no meaning. -/
inductive Refusal where
  /-- An arm of `exec` without a meaning yet. Safe. -/
  | notModelled (mnemonic : String)
  /-- The model's own (log entry 6): raised by a step that takes a byte string which is no request record in the
  model's byte form. The spec's host gives request records only (R181). Safe. -/
  | malformedRecord (why : Reject)
deriving DecidableEq, Repr

/-- The state of the block. `none` in a register is the spec's `⊥` (R20); the last three fields are the model's own:
the inputs not yet read and the counter of free draws (log entries 3 and 4). -/
structure State where
  /-- `CFG_ADDR` (R22). -/
  cfgAddr : Option BusAddr
  /-- `CFG_COLS` (R23). -/
  cfgCols : Option Byte
  /-- `CFG_ROWS` (R24). -/
  cfgRows : Option Byte
  /-- `CFG_CHARSIZE` (R25). -/
  cfgCharsize : Option CharSize
  /-- `FUNC` (R26). -/
  func : Option Byte
  /-- `CTRL` (R27). -/
  ctrl : Option Byte
  /-- `ENTRY` (R28). -/
  entry : Option Byte
  /-- `BL` (R29). -/
  bl : Option Byte
  /-- `PHASE` (R31). -/
  phase : Phase
  /-- `BUSY` (R32). -/
  busy : Bool
  /-- `CUR_OP` (R32). -/
  curOp : Option Instr
  /-- `UPROG` (R33). -/
  uprog : List Uop
  /-- `UPC` (R33). -/
  upc : Nat
  /-- `RESULT`, `none` for `⊥` (R34). -/
  result : Option Result
  /-- `EXP_OUT` (R37). -/
  expOut : ExpOut
  /-- `LINK` (R38). -/
  link : Link
  /-- `TRACE`, oldest event first (R39). -/
  trace : List Event
  /-- The refusal mark of R214. -/
  refusal : Option RefuseReason
  /-- The request records the host offers, oldest first (R181, R246). -/
  inbox : List (List Byte)
  /-- The answers the environment has scheduled, next first (R180, R185, R194). -/
  script : List BusDraw
  /-- The number of free draws taken so far. -/
  draws : Nat
deriving DecidableEq, Repr

/-- The state right after reset (R42, R240). -/
def State.reset : State where
  cfgAddr := none
  cfgCols := none
  cfgRows := none
  cfgCharsize := none
  func := none
  ctrl := none
  entry := none
  bl := none
  phase := .unconfigured
  busy := false
  curOp := none
  uprog := []
  upc := 0
  result := none
  expOut := .unknown
  link := .unknown
  trace := []
  refusal := none
  inbox := []
  script := []
  draws := 0

/-- How the execution of one micro-operation ends: it completed and `UPC` advanced, it aborted the request (R192), or
the model faults. -/
inductive MicroOutcome where
  | advanced (s : State)
  | aborted (s : State)
  | fault (r : Fault)
deriving DecidableEq, Repr

/-- What the block does next (R198): run an instruction in a state, or end the step with this answer. -/
inductive Turn where
  | run (i : Instr) (s : State)
  | done (o : Host.Outcome State Fault Refusal)
deriving Repr

end Sys2Proof.Machine
end

