-- ==== Sys2Proof/Machine/Flags.lean ====
section
/-! DEFINITION. The flag computations: FUNC from the geometry (R101), the set and clear of one flag bit (R132–R136),
and the fields of the flag registers (R26–R28). -/

namespace Sys2Proof.Machine

/-- `funcflags(rows, cs)` (R101): 4-bit bus; two lines iff `rows > 1`; 5x10 dots iff asked for and `rows = 1`. -/
def funcFlags (rows : Byte) (cs : CharSize) : Byte :=
  Config.fn4BitMode
    ||| (if rows.toNat > 1 then Config.fn2Line else 0x00)
    ||| (if cs = .dots5x10 ∧ rows.toNat = 1 then Config.fn5x10Dots else 0x00)

/-- `if on then S.X | FLAG else S.X & ~FLAG`, the operand of the `SET` of R132–R136. -/
def flagUpdate (r : FlagReg) (flag : Byte) (on : Bool) : Expr :=
  if on then .or (.reg r) (.lit flag) else .and (.reg r) (.lit (~~~ flag))

/-- `if on then BL else 0x00`, the operand of the `SET` of R138. -/
def backlightUpdate (on : Bool) : Expr :=
  if on then .lit Config.blBit else .lit 0x00

/-- FUNC.DL (R26). -/
def funcDL (f : Byte) : Bool := f.getLsbD 4
/-- FUNC.N (R26). -/
def funcN (f : Byte) : Bool := f.getLsbD 3
/-- FUNC.F (R26). -/
def funcF (f : Byte) : Bool := f.getLsbD 2
/-- CTRL.D (R27). -/
def ctrlD (c : Byte) : Bool := c.getLsbD 2
/-- CTRL.C (R27). -/
def ctrlC (c : Byte) : Bool := c.getLsbD 1
/-- CTRL.B (R27). -/
def ctrlB (c : Byte) : Bool := c.getLsbD 0
/-- ENTRY.ID (R28). -/
def entryID (e : Byte) : Bool := e.getLsbD 1
/-- ENTRY.S (R28). -/
def entryS (e : Byte) : Bool := e.getLsbD 0

end Sys2Proof.Machine
end

