-- ==== Sys2Proof/Machine/Operands.lean ====
section
/-! DEFINITION. The operand forms: reading a register that may hold `⊥` (R20), the row clamp and the DDRAM command
(R160–R162), and the value of a micro-operation's operand expression (R182, R183, R186). -/

namespace Sys2Proof.Machine

/-- Read a state element: its value, or `fault(UnwrittenRead)` if it holds `⊥`, "never a default value" (R20; R9, R214,
R241, I13 say the same). `⊥` is the value R42 states for reset. -/
def need {α : Type} (r : RegName) (x : Option α) : Except Fault α :=
  match x with
  | some v => .ok v
  | none => .error (.unwrittenRead r)

/-- Read a flag register (R26–R29). -/
def readFlag (s : State) : FlagReg → Except Fault Byte
  | .func => need .func s.func
  | .ctrl => need .ctrl s.ctrl
  | .entry => need .entry s.entry
  | .bl => need .bl s.bl

/-- `clamp_row(row)` (R161), the literal comparison `row > rows` (C3, D11). -/
def clampRow (rows row : Byte) : Nat :=
  if row.toNat > rows.toNat then rows.toNat - 1 else row.toNat

/-- `SET_DDRAM_ADDR | ((col + off) & 0x7F)`, the sum on unbounded integers (R162). -/
def ddramByte (col off : Byte) : Byte :=
  Config.setDdramAddr ||| trunc8 ((col.toNat + off.toNat) &&& 0x7F)

/-- `ddram_cmd(col, row)` (R160); a clamped row of 4 or more is `fault(RowOffsetOutOfTable)` (R161). -/
def ddramCmd (rows col row : Byte) : Except Fault Byte :=
  match Config.rowOffset (clampRow rows row) with
  | some off => .ok (ddramByte col off)
  | none => .error .rowOffsetOutOfTable

/-- The value of an operand expression in a state. -/
def evalExpr (s : State) : Expr → Except Fault Byte
  | .lit v => .ok v
  | .reg r => readFlag s r
  | .ddramCmd col row =>
    match need .cfgRows s.cfgRows with
    | .ok rows => ddramCmd rows col row
    | .error f => .error f
  | .or a b =>
    match evalExpr s a, evalExpr s b with
    | .ok x, .ok y => .ok (x ||| y)
    | .error f, _ => .error f
    | .ok _, .error f => .error f
  | .and a b =>
    match evalExpr s a, evalExpr s b with
    | .ok x, .ok y => .ok (x &&& y)
    | .error f, _ => .error f
    | .ok _, .error f => .error f
  | .shl4 a =>
    match evalExpr s a with
    | .ok x => .ok (x <<< 4)
    | .error f => .error f

/-- `mode` as a byte: 0x00 for a command, RS for data (R78, R188). -/
def modeBits : Mode → Byte
  | .command => 0x00
  | .data => Config.rsBit

end Sys2Proof.Machine
end

