-- ==== Sys2Proof/Machine/Programs.lean ====
section
/-! DEFINITION. The protocol macros (R187–R190) and the micro-program templates of the requests (R103–R114,
R130–R138, R160, R163–R165), and `expand` (R182). -/

namespace Sys2Proof.Machine

/-! ### Protocol macros -/

/-- `NIBBLE(n)` (R187). -/
def nibbleProg (n : Expr) : List Uop :=
  [.w n,
   .w (.or n (.lit Config.enBit)),
   .t Config.enablePulseUs,
   .w (.and n (.lit (~~~ Config.enBit))),
   .t Config.settleUs]

/-- `(v & 0xF0) | mode` (R78). -/
def highNibble (v : Expr) (m : Mode) : Expr :=
  .or (.and v (.lit 0xF0)) (.lit (modeBits m))

/-- `(trunc8(v << 4) & 0xF0) | mode` (R78). -/
def lowNibble (v : Expr) (m : Mode) : Expr :=
  .or (.and (.shl4 v) (.lit 0xF0)) (.lit (modeBits m))

/-- `BYTE(v, m)`: high nibble first (R52, R188). -/
def byteProg (v : Expr) (m : Mode) : List Uop :=
  nibbleProg (highNibble v m) ++ nibbleProg (lowNibble v m)

/-- `CMD(v)` (R189). -/
def cmd (v : Expr) : List Uop := byteProg v .command

/-- `DATA(v)` (R190). -/
def data (v : Byte) : List Uop := byteProg (.lit v) .data

/-! ### Display commands (R130–R138) -/

/-- R130. -/
def progClear : List Uop := cmd (.lit Config.clearDisplay) ++ [.t Config.longCommandUs]

/-- R131. -/
def progHome : List Uop := cmd (.lit Config.returnHome) ++ [.t Config.longCommandUs]

/-- `CMD(DISPLAY_CONTROL | S.CTRL)` (R79). -/
def sendCtrl : List Uop := cmd (.or (.lit Config.displayControl) (.reg .ctrl))

/-- `CMD(ENTRY_MODE_SET | S.ENTRY)` (R79). -/
def sendEntry : List Uop := cmd (.or (.lit Config.entryModeSet) (.reg .entry))

/-- R132. -/
def progSetDisplay (on : Bool) : List Uop :=
  .set .ctrl (flagUpdate .ctrl Config.displayOn on) :: sendCtrl

/-- R133. -/
def progSetCursor (on : Bool) : List Uop :=
  .set .ctrl (flagUpdate .ctrl Config.cursorOn on) :: sendCtrl

/-- R134. -/
def progSetBlink (on : Bool) : List Uop :=
  .set .ctrl (flagUpdate .ctrl Config.blinkOn on) :: sendCtrl

/-- R135. -/
def progSetEntryDirection (ltr : Bool) : List Uop :=
  .set .entry (flagUpdate .entry Config.entryLeft ltr) :: sendEntry

/-- R136. -/
def progSetAutoscroll (on : Bool) : List Uop :=
  .set .entry (flagUpdate .entry Config.entryShiftIncrement on) :: sendEntry

/-- `CURSOR_SHIFT | DISPLAY_MOVE | {MOVE_LEFT, MOVE_RIGHT}` (R137). -/
def scrollCmd (dir : ScrollDir) : Byte :=
  Config.cursorShift ||| Config.displayMove |||
    (match dir with
     | .left => Config.moveLeft
     | .right => Config.moveRight)

/-- R137. -/
def progScroll (dir : ScrollDir) : List Uop := cmd (.lit (scrollCmd dir))

/-- R138. -/
def progSetBacklight (on : Bool) : List Uop := [.set .bl (backlightUpdate on), .w (.lit 0x00)]

/-! ### Addressing and data (R160–R165) -/

/-- R160. -/
def progSetCursorPosition (col row : Byte) : List Uop := cmd (.ddramCmd col row)

/-- `SET_CGRAM_ADDR | (slot << 3)` (R163). -/
def cgramCmd (slot : BitVec 3) : Byte := Config.setCgramAddr ||| slot.zeroExtend 8 <<< 3

/-- `DATA(s[0]) ++ … ++ DATA(s[n-1])` (R163, R165). -/
def progData : List Byte → List Uop
  | [] => []
  | v :: rest => data v ++ progData rest

/-- R163. -/
def progDefineGlyph (slot : BitVec 3) (p : Glyph) : List Uop :=
  cmd (.lit (cgramCmd slot)) ++ progData p.toList

/-- R164. -/
def progWriteChar (byte : Byte) : List Uop := data byte

/-- R165. -/
def progWriteText (bytes : List Byte) : List Uop := progData bytes

/-! ### begin (R103–R114) -/

/-- Steps 1 to 4 (R104–R107): acquire, power-rise wait, backlight-only write, settle wait. -/
def beginWake : List Uop :=
  [.b, .t Config.powerRiseUs, .w (.lit 0x00), .t Config.initSettleUs]

/-- Step 5 (R108). -/
def beginForce : List Uop :=
  nibbleProg (.lit Config.initNibble3) ++ [.t Config.initRetryUs]
    ++ nibbleProg (.lit Config.initNibble3) ++ [.t Config.initRetryUs]
    ++ nibbleProg (.lit Config.initNibble3) ++ [.t Config.initThirdUs]

/-- Step 6 (R109). -/
def beginCommit : List Uop := nibbleProg (.lit Config.initNibble2)

/-- Step 7 (R110). -/
def beginFunction : List Uop := cmd (.or (.lit Config.functionSet) (.reg .func))

/-- Step 8 (R111). -/
def beginControl : List Uop := .set .ctrl (.lit Config.displayOn) :: sendCtrl

/-- Step 10 (R113). -/
def beginEntry : List Uop := .set .entry (.lit Config.entryLeft) :: sendEntry

/-- `UPROG(begin) = S1 ++ … ++ S11` (R103); steps 9 and 11 are the micro-programs of clear and home (R112, R114). -/
def progBegin : List Uop :=
  beginWake ++ beginForce ++ beginCommit ++ beginFunction ++ beginControl ++ progClear ++ beginEntry ++ progHome

/-! ### expand -/

/-- `expand(q)` (R182). `init` has no micro-program; for a micro-operation or primitive, its own micro-operations. -/
def expand : Instr → List Uop
  | .init _ _ _ _ => []
  | .begin => progBegin
  | .clear => progClear
  | .home => progHome
  | .setDisplay on => progSetDisplay on
  | .setCursor on => progSetCursor on
  | .setBlink on => progSetBlink on
  | .scroll dir => progScroll dir
  | .setEntryDirection ltr => progSetEntryDirection ltr
  | .setAutoscroll on => progSetAutoscroll on
  | .setBacklight on => progSetBacklight on
  | .setCursorPosition col row => progSetCursorPosition col row
  | .defineGlyph slot p => progDefineGlyph slot p
  | .writeChar byte => progWriteChar byte
  | .writeText bytes => progWriteText bytes
  | .w x => [.w x]
  | .t us => [.t us]
  | .b => [.b]
  | .set x e => [.set x e]
  | .pulseNibble n => nibbleProg n
  | .sendByte v m => byteProg v m

/-- The instruction a micro-operation of `UPROG` is. -/
def Uop.toInstr : Uop → Instr
  | .w x => .w x
  | .t us => .t us
  | .b => .b
  | .set x e => .set x e

end Sys2Proof.Machine
end

