-- ==== Sys2Proof/Machine/Ops.lean ====
section
/-! DEFINITION. The operations the meanings share: events, the draws of the environment (R198), the flag-register
write (R186), the expander write (R183, R194), completion (R191), the abort (R192, R217), and the taking, holding and
refusing of a request (R182, R214, R246). -/

namespace Sys2Proof.Machine

/-- `emit(e)`: append to TRACE (R10, R39). -/
def State.emit (s : State) (e : Event) : State := { s with trace := s.trace ++ [e] }

/-- `S.UPC <- S.UPC + 1` (R33). -/
def State.advance (s : State) : State := { s with upc := s.upc + 1 }

/-- `S.X <- v` (R186). -/
def State.setFlag (s : State) (x : SetReg) (v : Byte) : State :=
  match x with
  | .ctrl => { s with ctrl := some v }
  | .entry => { s with entry := some v }
  | .bl => { s with bl := some v }

/-- The environment's draw for the next bus operation: the one scheduled, or else a free draw (R180, R198; log
entry 4). -/
def State.nextDraw (s : State) : BusDraw :=
  match s.script with
  | d :: _ => d
  | [] => Config.freeBusDraw s.draws

/-- The state once that draw is taken. -/
def State.afterDraw (s : State) : State :=
  match s.script with
  | _ :: rest => { s with script := rest }
  | [] => { s with draws := s.draws + 1 }

/-- The expander's register after `MemWrite(addr, 1, v)` (R194): `v` on `Ack`; on `Err`, the draw from its previous
value and `v`. -/
def expAfter (prev : ExpOut) (v : Byte) (d : BusDraw) : ExpOut :=
  match d.answer with
  | .ack => .known v
  | .err _ => if d.taken then .known v else prev

/-- Is this the request `begin`, the one with a completion rule and an abort rule of its own (R115, R116)? -/
def isBegin : Option Instr → Bool
  | some .begin => true
  | _ => false

/-- The abort `abort(TransportError{info})` (R192, R217), the block's only trap: begin's own rule moves PHASE back to
Configured (R116); LINK, RESULT, BUSY and CUR_OP change; UPC keeps the failing index; nothing is saved. There is no
return from it (R219). -/
def State.abort (s : State) (info : TransportInfo) : State :=
  { s with
    phase := if isBegin s.curOp then .configured else s.phase
    link := .suspect
    result := some (.transportError info)
    trace := s.trace ++ [.complete (.transportError info)]
    busy := false
    curOp := none }

/-- Normal completion (R191); begin's own rule moves PHASE to Ready and LINK to Synced (R115). UPROG and UPC stay. -/
def State.finish (s : State) : State :=
  { s with
    phase := if isBegin s.curOp then .ready else s.phase
    link := if isBegin s.curOp then .synced else s.link
    result := some .ok
    trace := s.trace ++ [.complete .ok]
    busy := false
    curOp := none }

/-- The address as the transport's 8-bit field carries it: bit 7 is always 0 (R22, C6). -/
def transportAddr (a : BusAddr) : Byte := a.zeroExtend 8

/-- `MemWrite(a, 1, v)` with the event, the expander update and the end of the micro-operation (R183, R194). -/
def busWrite (a : BusAddr) (v : Byte) (s : State) : MicroOutcome :=
  let d := s.nextDraw
  let t : State := { s.afterDraw with
    trace := s.trace ++ [.write a v d.answer]
    expOut := expAfter s.expOut v d }
  match d.answer with
  | .ack => .advanced t.advance
  | .err kind => .aborted (t.abort { kind := kind, upc := s.upc, byte := some v })

/-- `BusInit()` with the event and the end of the micro-operation (R185): no expander write. -/
def busInit (s : State) : MicroOutcome :=
  let d := s.nextDraw
  let t : State := s.afterDraw.emit (.busInit d.answer)
  match d.answer with
  | .ack => .advanced t.advance
  | .err kind => .aborted (t.abort { kind := kind, upc := s.upc, byte := none })

/-- A micro-operation's end as the answer of a step. -/
def MicroOutcome.answer : MicroOutcome → Host.Outcome State Fault Refusal
  | .advanced s => .next s
  | .aborted s => .next s
  | .fault r => .fault r

/-! ### Requests -/

/-- Acceptance of request `q` (R182). -/
def State.accept (s : State) (q : Instr) : State :=
  { s with
    trace := s.trace ++ [.accept q]
    curOp := some q
    uprog := expand q
    upc := 0
    busy := true }

/-- `refuse(reason)` (R214): the request is not performed, no event is recorded, and the refusal mark is set and
kept. A mark that is already there stays (log entry 2). -/
def State.refuse (s : State) (r : RefuseReason) : State :=
  { s with refusal := match s.refusal with
      | some r' => some r'
      | none => some r }

/-- A request given while `BUSY = 1` is held: it waits at the host interface until the block is free (R182, R246,
D34). -/
def State.hold (s : State) (q : Instr) : State :=
  match encode q with
  | some r => { s with inbox := s.inbox ++ [r] }
  | none => s

/-- Take a request other than init and begin (R182). -/
def takeRequest (q : Instr) (s : State) : Host.Outcome State Fault Refusal :=
  if s.busy then .next (s.hold q) else
  match s.phase with
  | .ready => .next (s.accept q)
  | .configured => .next (s.refuse .notBegun)
  | .unconfigured => .next (s.refuse .noConfig)

/-- Take begin (R182). -/
def takeBegin (q : Instr) (s : State) : Host.Outcome State Fault Refusal :=
  if s.busy then .next (s.hold q) else
  match s.phase with
  | .unconfigured => .next (s.refuse .noConfig)
  | .configured => .next (s.accept q)
  | .ready => .next (s.accept q)

end Sys2Proof.Machine
end

