-- ==== Sys2Proof/Machine/Display.lean ====
section
/-! DEFINITION. The display command requests (R130–R138): each is taken as R182 says and its micro-program is the one
of its rule (`expand`). -/

namespace Sys2Proof.Machine

/-- clear (R130). -/
def execClear (s : State) : Host.Outcome State Fault Refusal := takeRequest .clear s

/-- home (R131). -/
def execHome (s : State) : Host.Outcome State Fault Refusal := takeRequest .home s

/-- setDisplay (R132). -/
def execSetDisplay (on : Bool) (s : State) : Host.Outcome State Fault Refusal := takeRequest (.setDisplay on) s

/-- setCursor (R133). -/
def execSetCursor (on : Bool) (s : State) : Host.Outcome State Fault Refusal := takeRequest (.setCursor on) s

/-- setBlink (R134). -/
def execSetBlink (on : Bool) (s : State) : Host.Outcome State Fault Refusal := takeRequest (.setBlink on) s

/-- scroll (R137). -/
def execScroll (dir : ScrollDir) (s : State) : Host.Outcome State Fault Refusal := takeRequest (.scroll dir) s

/-- setEntryDirection (R135). -/
def execSetEntryDirection (ltr : Bool) (s : State) : Host.Outcome State Fault Refusal :=
  takeRequest (.setEntryDirection ltr) s

/-- setAutoscroll (R136). -/
def execSetAutoscroll (on : Bool) (s : State) : Host.Outcome State Fault Refusal := takeRequest (.setAutoscroll on) s

/-- setBacklight (R138). -/
def execSetBacklight (on : Bool) (s : State) : Host.Outcome State Fault Refusal := takeRequest (.setBacklight on) s

end Sys2Proof.Machine
end

