-- ==== Sys2Proof/Machine/Lifecycle.lean ====
section
/-! DEFINITION. The lifecycle requests init (R100–R102) and begin (R103–R117). -/

namespace Sys2Proof.Machine

/-- The configuration written by a valid init (R100). CTRL and ENTRY are not written. -/
def State.configure (s : State) (addr : BusAddr) (cols rows : Byte) (cs : CharSize) : State :=
  { s with
    cfgAddr := some addr
    cfgCols := some cols
    cfgRows := some rows
    cfgCharsize := some cs
    func := some (funcFlags rows cs)
    bl := some Config.blBit
    phase := .configured }

/-- Record the result of init and report it (R100, R102). -/
def State.report (s : State) (r : Result) : State :=
  { s with result := some r, trace := s.trace ++ [.complete r] }

/-- The first zero field in the order cols, rows (R102). -/
def configProblem (cols rows : Byte) : Option ConfigField :=
  if cols = 0 then some .cols else if rows = 0 then some .rows else none

/-- init (R100): one atomic step, admitted only in phase Unconfigured (R182). -/
def execInit (addr : BusAddr) (cols rows : Byte) (cs : CharSize) (s : State) :
    Host.Outcome State Fault Refusal :=
  if s.busy then .next (s.hold (.init addr cols rows cs)) else
  match s.phase with
  | .unconfigured =>
    let t := s.emit (.accept (.init addr cols rows cs))
    match configProblem cols rows with
    | some field => .next (t.report (.configError field))
    | none => .next ((t.configure addr cols rows cs).report .ok)
  | .configured => .next (s.refuse .alreadyConfigured)
  | .ready => .next (s.refuse .alreadyConfigured)

/-- begin (R103): its completion and abort rules (R115, R116) are in `State.finish` and `State.abort`. -/
def execBegin (s : State) : Host.Outcome State Fault Refusal := takeBegin .begin s

end Sys2Proof.Machine
end

