-- ==== Sys2Proof/Machine/PositionData.lean ====
section
/-! DEFINITION. The addressing and data requests (R160–R165): each is taken as R182 says and its micro-program is the
one of its rule (`expand`). -/

namespace Sys2Proof.Machine

/-- setCursorPosition (R160). Its operand, and the fault of R161, are evaluated by its first `W`. -/
def execSetCursorPosition (col row : Byte) (s : State) : Host.Outcome State Fault Refusal :=
  takeRequest (.setCursorPosition col row) s

/-- defineGlyph (R163). -/
def execDefineGlyph (slot : BitVec 3) (p : Glyph) (s : State) : Host.Outcome State Fault Refusal :=
  takeRequest (.defineGlyph slot p) s

/-- writeChar (R164). -/
def execWriteChar (byte : Byte) (s : State) : Host.Outcome State Fault Refusal := takeRequest (.writeChar byte) s

/-- writeText (R165). -/
def execWriteText (bytes : List Byte) (s : State) : Host.Outcome State Fault Refusal :=
  takeRequest (.writeText bytes) s

end Sys2Proof.Machine
end

