-- ==== Sys2Proof/Machine/Sequencer.lean ====
section
/-! DEFINITION. The four micro-operations (R183–R186) and the two internal primitives (R187, R188). -/

namespace Sys2Proof.Machine

/-- `W(x)` (R183): the operand, ORed with BL (R193), written to CFG_ADDR. Everything it reads is read before the
write is issued. -/
def microW (x : Expr) (s : State) : MicroOutcome :=
  match evalExpr s x, need .bl s.bl, need .cfgAddr s.cfgAddr with
  | .ok v, .ok bl, .ok a => busWrite a (v ||| bl) s
  | .error f, _, _ => .fault f
  | .ok _, .error f, _ => .fault f
  | .ok _, .ok _, .error f => .fault f

/-- `T(t)` (R184): the event records the minimum; the model has no clock (R254, D4). -/
def microT (us : Nat) (s : State) : MicroOutcome := .advanced (s.emit (.wait us)).advance

/-- `B` (R185). -/
def microB (s : State) : MicroOutcome := busInit s

/-- `SET(X, e)` (R186): no bus traffic, no event, cannot fail; an abort does not undo it (D19). -/
def microSet (x : SetReg) (e : Expr) (s : State) : MicroOutcome :=
  match evalExpr s e with
  | .ok v => .advanced (s.setFlag x v).advance
  | .error f => .fault f

/-- Execute one micro-operation. -/
def micro : Uop → State → MicroOutcome
  | .w x, s => microW x s
  | .t us, s => microT us s
  | .b, s => microB s
  | .set x e, s => microSet x e s

/-- Execute micro-operations in list order, one after another, up to the first that aborts or faults (R61, R192). -/
def microRun : List Uop → State → MicroOutcome
  | [], s => .advanced s
  | m :: rest, s =>
    match micro m s with
    | .advanced t => microRun rest t
    | .aborted t => .aborted t
    | .fault r => .fault r

/-- `W(x)` as an instruction. -/
def execW (x : Expr) (s : State) : Host.Outcome State Fault Refusal := (microW x s).answer

/-- `T(t)` as an instruction. -/
def execT (us : Nat) (s : State) : Host.Outcome State Fault Refusal := (microT us s).answer

/-- `B` as an instruction. -/
def execB (s : State) : Host.Outcome State Fault Refusal := (microB s).answer

/-- `SET(X, e)` as an instruction. -/
def execSet (x : SetReg) (e : Expr) (s : State) : Host.Outcome State Fault Refusal := (microSet x e s).answer

/-- `NIBBLE(n)` (R187): its five micro-operations (log entry 7). -/
def execPulseNibble (n : Expr) (s : State) : Host.Outcome State Fault Refusal := (microRun (nibbleProg n) s).answer

/-- `BYTE(v, m)` (R188): its ten micro-operations (log entry 7). -/
def execSendByte (v : Expr) (m : Mode) (s : State) : Host.Outcome State Fault Refusal :=
  (microRun (byteProg v m) s).answer

end Sys2Proof.Machine
end

