-- ==== Sys2Proof/Machine/Dispatch.lean ====
section
/-! DEFINITION. The meaning of each instruction: one arm per constructor. -/

namespace Sys2Proof.Machine

def exec (i : Instr) (s : State) : Host.Outcome State Fault Refusal :=
  match i with
  | .init addr cols rows cs => Sys2Proof.Machine.execInit addr cols rows cs s
  | .begin => Sys2Proof.Machine.execBegin s
  | .clear => Sys2Proof.Machine.execClear s
  | .home => Sys2Proof.Machine.execHome s
  | .setDisplay on => Sys2Proof.Machine.execSetDisplay on s
  | .setCursor on => Sys2Proof.Machine.execSetCursor on s
  | .setBlink on => Sys2Proof.Machine.execSetBlink on s
  | .scroll dir => Sys2Proof.Machine.execScroll dir s
  | .setEntryDirection ltr => Sys2Proof.Machine.execSetEntryDirection ltr s
  | .setAutoscroll on => Sys2Proof.Machine.execSetAutoscroll on s
  | .setBacklight on => Sys2Proof.Machine.execSetBacklight on s
  | .setCursorPosition col row => Sys2Proof.Machine.execSetCursorPosition col row s
  | .defineGlyph slot p => Sys2Proof.Machine.execDefineGlyph slot p s
  | .writeChar byte => Sys2Proof.Machine.execWriteChar byte s
  | .writeText bytes => Sys2Proof.Machine.execWriteText bytes s
  | .w x => Sys2Proof.Machine.execW x s
  | .t us => Sys2Proof.Machine.execT us s
  | .b => Sys2Proof.Machine.execB s
  | .set x e => Sys2Proof.Machine.execSet x e s
  | .pulseNibble n => Sys2Proof.Machine.execPulseNibble n s
  | .sendByte v m => Sys2Proof.Machine.execSendByte v m s

end Sys2Proof.Machine
end

