-- ==== Sys2Proof/Machine/Fetch.lean ====
section
/-! DEFINITION. What the block does next (R198): the micro-operation at UPC, the completion, the next request record
of the host, or nothing. -/

namespace Sys2Proof.Machine

/-- The turn while `BUSY = 1` (R33, R183–R186, R191). -/
def busyTurn (s : State) : Turn :=
  match s.uprog[s.upc]? with
  | some m => .run m.toInstr s
  | none => if s.upc = s.uprog.length then .done (.next s.finish) else .done (.fault .stuckSequencer)

/-- The turn that takes record `r` of the host; `s` is the state with the record taken off the interface. Code 0xF is
refused (R82, R182); a byte string that is no record has no meaning (log entry 6). -/
def recordTurn (r : List Byte) (s : State) : Turn :=
  match decode r with
  | .ok i => .run i s
  | .error .unknownRequest => .done (.next (s.refuse .unknownRequest))
  | .error why => .done (.refused (.malformedRecord why))

/-- The turn while `BUSY = 0`: the host's oldest record, or idling (R182, R230, R242). -/
def idleTurn (s : State) : Turn :=
  match s.inbox with
  | [] => .done (.next s)
  | r :: rest => recordTurn r { s with inbox := rest }

/-- The block's next turn. -/
def nextTurn (s : State) : Turn := if s.busy then busyTurn s else idleTurn s

/-- `s` idle with record `r` first in line at the host interface. -/
def State.offer (s : State) (r : List Byte) : State :=
  { s with inbox := r :: s.inbox, busy := false, curOp := none }

end Sys2Proof.Machine
end

