-- ==== Sys2Proof/Machine/Step.lean ====
section
/-! DEFINITION. The step (R198). -/

namespace Sys2Proof.Machine

/-- One step of the block. -/
def step (s : State) : Host.Outcome State Fault Refusal :=
  match nextTurn s with
  | .run i t => exec i t
  | .done o => o

/-- `s` with the request of the opcode table's word `w` offered by the host to an idle block, so that the very next
step takes it (log entry 17). -/
def State.withFetchWord (s : State) (nbits w : Nat) : State := s.offer (tableRecord nbits w)

end Sys2Proof.Machine
end

