-- ==== Sys2Proof/Machine/Text.lean ====
section
/-! DEFINITION. The textual syntax of the requests (R85): one line per request, as a list of characters. `render`
writes a request, every number in hexadecimal and every byte of a text as `\xNN`; `parse` reads a line. -/

namespace Sys2Proof.Text

/-- A hexadecimal digit's value. -/
def hexVal (c : Char) : Option Nat :=
  if '0' ≤ c ∧ c ≤ '9' then some (c.toNat - '0'.toNat)
  else if 'a' ≤ c ∧ c ≤ 'f' then some (c.toNat - 'a'.toNat + 10)
  else if 'A' ≤ c ∧ c ≤ 'F' then some (c.toNat - 'A'.toNat + 10)
  else none

/-- The value of digits in a base, after the value `acc` of those before them. -/
def digits (base acc : Nat) : List Char → Option Nat
  | [] => some acc
  | c :: rest =>
    match hexVal c with
    | some d => if d < base then digits base (acc * base + d) rest else none
    | none => none

/-- A number, "decimal, or hexadecimal with `0x`" (R85). -/
def number : List Char → Option Nat
  | [] => none
  | '0' :: 'x' :: c :: rest => digits 16 0 (c :: rest)
  | c :: rest => digits 10 0 (c :: rest)

/-- A number that fits a field of `w` bits; a value outside it "cannot be represented" (R80). -/
def field (w : Nat) (cs : List Char) : Option (BitVec w) :=
  match number cs with
  | some n => if n < 2 ^ w then some (BitVec.ofNat w n) else none
  | none => none

/-- Without the spaces in front. -/
def dropSpaces : List Char → List Char
  | ' ' :: rest => dropSpaces rest
  | cs => cs

/-- Without the spaces on either side. -/
def trim (cs : List Char) : List Char := (dropSpaces (dropSpaces cs).reverse).reverse

/-- The parts between the separators. -/
def splitOn (sep : Char) : List Char → List (List Char)
  | [] => [[]]
  | c :: rest =>
    match splitOn sep rest with
    | part :: parts => if c = sep then [] :: part :: parts else (c :: part) :: parts
    | [] => [[c]]

/-- The operands, separated by commas. -/
def operands (cs : List Char) : List (List Char) := (splitOn ',' cs).map trim

/-- What follows a fixed word at the front. -/
def after : List Char → List Char → Option (List Char)
  | [], cs => some cs
  | _ :: _, [] => none
  | k :: ks, c :: cs => if k = c then after ks cs else none

/-- One of two words, as `false` or `true`. -/
def choice (no yes : String) (cs : List Char) : Option Bool :=
  if cs = no.toList then some false else if cs = yes.toList then some true else none

/-- The bytes of a text up to its closing quote: ASCII characters stand for their codes, `\xNN` for any byte. -/
def textBytes : List Char → Option (List Byte)
  | [] => none
  | ['"'] => some []
  | '\\' :: 'x' :: h :: l :: rest =>
    match hexVal h, hexVal l, textBytes rest with
    | some x, some y, some bs => some (BitVec.ofNat 8 (16 * x + y) :: bs)
    | _, _, _ => none
  | c :: rest =>
    if c = '"' ∨ c = '\\' ∨ 128 ≤ c.toNat then none else
    match textBytes rest with
    | some bs => some (BitVec.ofNat 8 c.toNat :: bs)
    | none => none

/-- `addr=…, cols=…, rows=…, charsize=…`. -/
def parseInit : List (List Char) → Option Instr
  | [a, c, r, z] => do
    let addr ← (after "addr=".toList a).bind (field 7)
    let cols ← (after "cols=".toList c).bind (field 8)
    let rows ← (after "rows=".toList r).bind (field 8)
    let big ← (after "charsize=".toList z).bind (choice "5x8" "5x10")
    return .init addr cols rows (if big then .dots5x10 else .dots5x8)
  | _ => none

/-- `<col>, <row>`. -/
def parsePosition : List (List Char) → Option Instr
  | [c, r] => do
    let col ← field 8 c
    let row ← field 8 r
    return .setCursorPosition col row
  | _ => none

/-- `<slot>, [<b0>, ..., <b7>]`. -/
def parseGlyph : List (List Char) → Option Instr
  | [s, '[' :: b0, b1, b2, b3, b4, b5, b6, b7] => do
    let slot ← field 3 s
    let last ← (after "]".toList b7.reverse).map List.reverse
    let p0 ← field 8 (trim b0)
    let p1 ← field 8 b1
    let p2 ← field 8 b2
    let p3 ← field 8 b3
    let p4 ← field 8 b4
    let p5 ← field 8 b5
    let p6 ← field 8 b6
    let p7 ← field 8 (trim last)
    return .defineGlyph slot ⟨p0, p1, p2, p3, p4, p5, p6, p7⟩
  | _ => none

/-- A request without operands. -/
def parseBare (i : Instr) : List Char → Option Instr
  | [] => some i
  | _ :: _ => none

/-- The request with this name and this operand text (R85). -/
def parseNamed (name rest : List Char) : Option Instr :=
  if name = "init".toList then parseInit (operands rest)
  else if name = "begin".toList then parseBare .begin rest
  else if name = "clear".toList then parseBare .clear rest
  else if name = "home".toList then parseBare .home rest
  else if name = "setDisplay".toList then (choice "off" "on" rest).map .setDisplay
  else if name = "setCursor".toList then (choice "off" "on" rest).map .setCursor
  else if name = "setBlink".toList then (choice "off" "on" rest).map .setBlink
  else if name = "scroll".toList then
    (choice "left" "right" rest).map fun r => .scroll (if r then .right else .left)
  else if name = "setEntryDirection".toList then (choice "rtl" "ltr" rest).map .setEntryDirection
  else if name = "setAutoscroll".toList then (choice "off" "on" rest).map .setAutoscroll
  else if name = "setBacklight".toList then (choice "off" "on" rest).map .setBacklight
  else if name = "setCursorPosition".toList then parsePosition (operands rest)
  else if name = "defineGlyph".toList then parseGlyph (operands rest)
  else if name = "writeChar".toList then (field 8 rest).map .writeChar
  else if name = "writeText".toList then
    match rest with
    | '"' :: body => (textBytes body).map .writeText
    | _ => none
  else none

/-- Read one line (R85). -/
def parse (line : List Char) : Option Instr :=
  let cs := trim line
  parseNamed (cs.takeWhile (· ≠ ' ')) (trim (cs.dropWhile (· ≠ ' ')))

/-- The digit of a value below 16. -/
def hexDigit (n : Nat) : Char :=
  if n < 10 then Char.ofNat ('0'.toNat + n) else Char.ofNat ('a'.toNat + (n - 10))

/-- Two hexadecimal digits. -/
def hex2 (n : Nat) : List Char := [hexDigit (n / 16), hexDigit (n % 16)]

/-- `0xNN`. -/
def hexByte {w : Nat} (v : BitVec w) : List Char := '0' :: 'x' :: hex2 v.toNat

/-- `on` or `off`. -/
def onOff (on : Bool) : List Char := if on then "on".toList else "off".toList

/-- The bytes of a text, each as `\xNN`. -/
def textChars : List Byte → List Char
  | [] => []
  | b :: rest => '\\' :: 'x' :: (hex2 b.toNat ++ textChars rest)

/-- `[<b0>, ..., <b7>]`. -/
def glyphChars (p : Glyph) : List Char :=
  '[' :: (hexByte p.p0 ++ ", ".toList ++ hexByte p.p1 ++ ", ".toList ++ hexByte p.p2 ++ ", ".toList
    ++ hexByte p.p3 ++ ", ".toList ++ hexByte p.p4 ++ ", ".toList ++ hexByte p.p5 ++ ", ".toList
    ++ hexByte p.p6 ++ ", ".toList ++ hexByte p.p7 ++ [']'])

/-- Write a request as a line; the micro-operations and primitives have no textual form. -/
def render : Instr → Option (List Char)
  | .init addr cols rows cs =>
    some ("init addr=".toList ++ hexByte addr ++ ", cols=".toList ++ hexByte cols ++ ", rows=".toList
      ++ hexByte rows ++ ", charsize=".toList ++ (match cs with
        | .dots5x8 => "5x8".toList
        | .dots5x10 => "5x10".toList))
  | .begin => some "begin".toList
  | .clear => some "clear".toList
  | .home => some "home".toList
  | .setDisplay on => some ("setDisplay ".toList ++ onOff on)
  | .setCursor on => some ("setCursor ".toList ++ onOff on)
  | .setBlink on => some ("setBlink ".toList ++ onOff on)
  | .scroll dir => some ("scroll ".toList ++ (match dir with
      | .left => "left".toList
      | .right => "right".toList))
  | .setEntryDirection ltr => some ("setEntryDirection ".toList ++ (if ltr then "ltr".toList else "rtl".toList))
  | .setAutoscroll on => some ("setAutoscroll ".toList ++ onOff on)
  | .setBacklight on => some ("setBacklight ".toList ++ onOff on)
  | .setCursorPosition col row => some ("setCursorPosition ".toList ++ hexByte col ++ ", ".toList ++ hexByte row)
  | .defineGlyph slot p => some ("defineGlyph ".toList ++ hexByte slot ++ ", ".toList ++ glyphChars p)
  | .writeChar byte => some ("writeChar ".toList ++ hexByte byte)
  | .writeText bytes => some ("writeText \"".toList ++ textChars bytes ++ ['"'])
  | .w _ => none
  | .t _ => none
  | .b => none
  | .set _ _ => none
  | .pulseNibble _ => none
  | .sendByte _ _ => none

end Sys2Proof.Text
end

