-- ==== Sys2Proof/Machine/Timing.lean ====
section
/-! DEFINITION. What the spec says about time. The machine has no clock (D1, R254); a schedule gives the events of a
trace a start and a finish time, and is legal when it keeps the minima (R62, R184, R197, R223, R224). Times are in
µs. -/

namespace Sys2Proof.Machine

/-- The minimum wait of a micro-operation (R184, R253). -/
def Uop.minWait : Uop → Nat
  | .w _ => 0
  | .t us => us
  | .b => 0
  | .set _ _ => 0

/-- The minimum duration of a micro-program: the sum of its `T` minima (R253). -/
def progMinWait : List Uop → Nat
  | [] => 0
  | m :: rest => m.minWait + progMinWait rest

/-- How many micro-operations of each kind: `W`, `T`, `B`, `SET` (R253). -/
structure UopCount where
  w   : Nat
  t   : Nat
  b   : Nat
  set : Nat
deriving DecidableEq, Repr

/-- The count of one micro-operation more. -/
def UopCount.add (c : UopCount) : Uop → UopCount
  | .w _ => { c with w := c.w + 1 }
  | .t _ => { c with t := c.t + 1 }
  | .b => { c with b := c.b + 1 }
  | .set _ _ => { c with set := c.set + 1 }

/-- The counts of a micro-program (R253). -/
def countUops : List Uop → UopCount
  | [] => { w := 0, t := 0, b := 0, set := 0 }
  | m :: rest => (countUops rest).add m

/-- The minimum wait an event stands for (R39, R184). -/
def Event.minWait : Event → Nat
  | .wait us => us
  | .accept _ => 0
  | .busInit _ => 0
  | .write _ _ _ => 0
  | .complete _ => 0

/-- The minimum wait of a list of events: back-to-back waits add up (R197). -/
def minWait : List Event → Nat
  | [] => 0
  | e :: rest => e.minWait + minWait rest

/-- An event with the time it starts and the time it finishes; for a write, its issue and the arrival of its answer
(R197). -/
structure Timed where
  event  : Event
  start  : Nat
  finish : Nat
deriving DecidableEq, Repr

/-- The least time one event takes: a wait at least its minimum (R184); a write answered `Timeout` at least
`P_BUS_TIMEOUT_MS` (R180, R224); nothing else has a minimum (R254). No event has a maximum (D4). -/
def Event.minDuration : Event → Nat
  | .wait us => us
  | .write _ _ (.err .timeout) => 1000 * Config.busTimeoutMs
  | .write _ _ (.err .nack) => 0
  | .write _ _ (.err .unreachable) => 0
  | .write _ _ .ack => 0
  | .accept _ => 0
  | .busInit _ => 0
  | .complete _ => 0

/-- One event is timed legally. -/
def Timed.legal (x : Timed) : Prop := x.start + x.event.minDuration ≤ x.finish

/-- A schedule is legal: every event is, and each starts no earlier than the one before it finishes (R61, R197). -/
def legalSchedule : List Timed → Prop
  | [] => True
  | [x] => x.legal
  | x :: y :: rest => x.legal ∧ x.finish ≤ y.start ∧ legalSchedule (y :: rest)

/-- A minimum rounded up to a timer of `tick` µs (R223, R250): "round up rather than down". -/
def roundUp (tick us : Nat) : Nat := (us + tick - 1) / tick * tick

end Sys2Proof.Machine
end

