-- ==== Sys2Proof/Machine/Wire.lean ====
section
/-! DEFINITION. The wire observation of R195: what latches on the LCD's bus, and the bytes rebuilt from it. It is a
function of TRACE; no step of the block reads it. -/

namespace Sys2Proof.Machine

/-- `Latch(rs, d)`: a latched nibble (R195). -/
structure Latch where
  rs : Bool
  d  : BitVec 4
deriving DecidableEq, Repr

/-- `WireByte(rs, value)`: a byte rebuilt from two latches (R195). -/
structure WireByte where
  rs    : Bool
  value : Byte
deriving DecidableEq, Repr

/-- The `Write(addr, v, Ack)` events in trace order (R195). -/
def ackWrites : List Event → List (BusAddr × Byte)
  | [] => []
  | .write a v .ack :: rest => (a, v) :: ackWrites rest
  | .write _ _ (.err _) :: rest => ackWrites rest
  | .accept _ :: rest => ackWrites rest
  | .busInit _ :: rest => ackWrites rest
  | .wait _ :: rest => ackWrites rest
  | .complete _ :: rest => ackWrites rest

/-- The first write to address `a` in a list of writes. -/
def nextWriteTo (a : BusAddr) : List (BusAddr × Byte) → Option Byte
  | [] => none
  | (a', v) :: rest => if a' = a then some v else nextWriteTo a rest

/-- Is the enable line high in this expander byte (R71)? -/
def enHigh (v : Byte) : Bool := (decodeExp8 v).en

/-- The nibble and RS line an expander byte carries (R195 item 1). -/
def latchOf (v : Byte) : Latch := { rs := (decodeExp8 v).rs, d := (decodeExp8 v).data }

/-- R195 item 1: a write with EN high latches if the next write to the same address has EN low. Item 2: no other
write latches. -/
def latchesOfWrites : List (BusAddr × Byte) → List Latch
  | [] => []
  | (a, v) :: rest =>
    match enHigh v, nextWriteTo a rest with
    | true, some v' => if enHigh v' then latchesOfWrites rest else latchOf v :: latchesOfWrites rest
    | true, none => latchesOfWrites rest
    | false, _ => latchesOfWrites rest

/-- The latches of an interval of the trace without an `Err` answer (R195). -/
def latches (tr : List Event) : List Latch := latchesOfWrites (ackWrites tr)

/-- Consecutive pairs `(h, l)` of latches, each a wire byte `{h.d, l.d}` with `h`'s RS (R195 item 3). -/
def pairUp : List Latch → List WireByte
  | h :: l :: rest => { rs := h.rs, value := h.d ++ l.d } :: pairUp rest
  | _ => []

/-- The events since the acceptance of the last begin, and whether that begin has completed; `none` before any begin
and from an `Err` answer until the next begin (R195, R196; log entry 13). -/
def sessionStep (x : Option (Bool × List Event)) (e : Event) : Option (Bool × List Event) :=
  match e with
  | .accept q => if isBegin (some q) then some (false, []) else x.map fun p => (p.1, p.2 ++ [e])
  | .busInit .ack => x.map fun p => (p.1, p.2 ++ [e])
  | .busInit (.err _) => none
  | .write _ _ .ack => x.map fun p => (p.1, p.2 ++ [e])
  | .write _ _ (.err _) => none
  | .wait _ => x.map fun p => (p.1, p.2 ++ [e])
  | .complete .ok => x.map fun p => (true, p.2 ++ [e])
  | .complete (.transportError _) => none
  | .complete (.configError _) => x.map fun p => (p.1, p.2 ++ [e])

/-- The session a trace ends in. -/
def session (tr : List Event) : Option (Bool × List Event) := tr.foldl sessionStep none

/-- The wire bytes of the begin that completed last and of the requests after it (R195 item 3): the first four
latches, the init nibbles, are dropped and the rest are paired. `none` where R195 defines no wire bytes. -/
def wireBytes (tr : List Event) : Option (List WireByte) :=
  match session tr with
  | some (true, evs) => some (pairUp ((latches evs).drop 4))
  | some (false, _) => none
  | none => none

/-- The last acknowledged byte written to `a`. -/
def lastAck (a : BusAddr) (tr : List Event) : Option Byte := nextWriteTo a (ackWrites tr).reverse

/-- The EN-high byte of the pulse that the write of `v` to `a`, answered `Err` after the events `pre`, cut short
(R195 item 4): that byte's own write failed, or the EN-low write after it did. `none` if no pulse was under way. -/
def cutPulse (pre : List Event) (a : BusAddr) (v : Byte) : Option Byte :=
  if enHigh v then some v else
  match lastAck a pre with
  | some u => if enHigh u then some u else none
  | none => none

/-- R195 item 4 (D22): whether the nibble of a pulse cut short latched is a free value. -/
def cutLatch (pre : List Event) (a : BusAddr) (v : Byte) : Option Latch :=
  match cutPulse pre a v with
  | some u => if Config.freeLatch pre.length then some (latchOf u) else none
  | none => none

/-- The latches of an interval that ends in a write of `v` to `a` answered `Err`. -/
def latchesUpToError (pre : List Event) (a : BusAddr) (v : Byte) : List Latch :=
  latches pre ++ (cutLatch pre a v).toList

end Sys2Proof.Machine
end

