-- ==== Sys2Proof/Safety.lean ====
section
/-! DEFINITION. The terms the statements use: the invariant of the block's states, the premise that bus operations are
acknowledged, the events a transfer leaves in the trace, and the state a completed request leaves. -/

namespace Sys2Proof.Machine

/-! ### The invariant -/

/-- A flag register holds only bits it can have (R26–R29). -/
def legalFlag (r : FlagReg) (v : Option Byte) : Prop := ∀ x, v = some x → x &&& ~~~ r.legalBits = 0

/-- Before init: the configuration and flag registers hold `⊥` (R42) and nothing runs (R242). -/
structure State.Blank (s : State) : Prop where
  cfgAddr : s.cfgAddr = none
  cfgCols : s.cfgCols = none
  cfgRows : s.cfgRows = none
  cfgCharsize : s.cfgCharsize = none
  func : s.func = none
  ctrl : s.ctrl = none
  entry : s.entry = none
  bl : s.bl = none
  idle : s.busy = false

/-- After init: a valid geometry, FUNC as computed from it (R100, R101), BL 0x08 or 0x00 (R29). -/
structure State.Configured (s : State) : Prop where
  cfgAddr : s.cfgAddr.isSome
  cfgCols : ∃ c, s.cfgCols = some c ∧ c ≠ 0
  geometry : ∃ r z, s.cfgRows = some r ∧ r ≠ 0 ∧ s.cfgCharsize = some z ∧ s.func = some (funcFlags r z)
  bl : s.bl = some 0x08 ∨ s.bl = some 0x00

/-- While `BUSY = 1`: CUR_OP is an admitted request with a micro-program, and UPROG is that micro-program (R32, R33,
R182). -/
structure State.Running (s : State) : Prop where
  admitted : ∃ q, s.curOp = some q ∧ q.reqCode.isSome ∧ q.reqCode ≠ some 0 ∧ s.uprog = expand q ∧
    (q = .begin ∨ s.phase = .ready)

/-- The invariant of the block: it holds at reset and every step keeps it. -/
structure State.Inv (s : State) : Prop where
  blank : s.phase = .unconfigured → s.Blank
  configured : s.phase ≠ .unconfigured → s.Configured
  begun : s.phase = .ready → s.ctrl.isSome ∧ s.entry.isSome ∧ s.link ≠ .unknown
  ctrlBits : legalFlag .ctrl s.ctrl
  entryBits : legalFlag .entry s.entry
  idle : s.busy = false → s.curOp = none
  running : s.busy = true → s.Running
  pc : s.upc ≤ s.uprog.length
  beginSets : s.curOp = some .begin → (38 ≤ s.upc → s.ctrl.isSome) ∧ (60 ≤ s.upc → s.entry.isSome)
  position : ∀ col row rows, s.curOp = some (.setCursorPosition col row) → s.cfgRows = some rows → 0 < s.upc →
    (Config.rowOffset (clampRow rows row)).isSome
  writes : ∀ a v o, Event.write a v o ∈ s.trace → s.cfgAddr = some a ∧ v.getLsbD 1 = false
  expOut : ∀ v, s.expOut = .known v → v.getLsbD 1 = false

/-! ### Reading a register that holds `⊥` -/

/-- The register a flag register is, among those that can hold `⊥`. -/
def flagRegName : FlagReg → RegName
  | .func => .func
  | .ctrl => .ctrl
  | .entry => .entry
  | .bl => .bl

/-- The register `r` holds `⊥` (R20). -/
def State.unwritten (s : State) : RegName → Prop
  | .cfgAddr => s.cfgAddr = none
  | .cfgCols => s.cfgCols = none
  | .cfgRows => s.cfgRows = none
  | .cfgCharsize => s.cfgCharsize = none
  | .func => s.func = none
  | .ctrl => s.ctrl = none
  | .entry => s.entry = none
  | .bl => s.bl = none

/-- The operand `e` reads the register `r`, wherever in it `r` stands (R182); `ddram_cmd` reads CFG_ROWS (R161). -/
def exprReads (r : RegName) : Expr → Prop
  | .lit _ => False
  | .reg x => flagRegName x = r
  | .ddramCmd _ _ => RegName.cfgRows = r
  | .or a b => exprReads r a ∨ exprReads r b
  | .and a b => exprReads r a ∨ exprReads r b
  | .shl4 a => exprReads r a

/-! ### Premises on the environment -/

/-- The next `n` bus operations are answered `Ack` (`Ok`), whether by the schedule or by the free draws. -/
def State.nextAcks : Nat → State → Prop
  | 0, _ => True
  | n + 1, s => s.nextDraw.answer = .ack ∧ State.nextAcks n s.afterDraw

/-- The state once the draws of `n` bus operations are taken. -/
def State.afterDraws : Nat → State → State
  | 0, s => s
  | n + 1, s => State.afterDraws n s.afterDraw

/-- The block is idle in phase Ready, with its address, backlight value as given: where R182 admits every request
but init. -/
structure State.ReadyIdle (s : State) (a : BusAddr) (bl : Byte) : Prop where
  phase : s.phase = .ready
  busy : s.busy = false
  addr : s.cfgAddr = some a
  backlight : s.bl = some bl

/-! ### What a transfer leaves in the trace -/

/-- The events of one acknowledged nibble transfer of the nibble-with-mode `n8` (R77, R187). -/
def nibbleEvents (a : BusAddr) (n8 bl : Byte) : List Event :=
  [.write a (n8 ||| bl) .ack,
   .write a (n8 ||| 0x04 ||| bl) .ack,
   .wait 1,
   .write a (n8 &&& 0xFB ||| bl) .ack,
   .wait 50]

/-- The events of one acknowledged byte transfer: high nibble, then low nibble (R78, R188). -/
def byteEvents (a : BusAddr) (v mode bl : Byte) : List Event :=
  nibbleEvents a (v &&& 0xF0 ||| mode) bl ++ nibbleEvents a (v <<< 4 &&& 0xF0 ||| mode) bl

/-- The expander byte an acknowledged byte transfer ends with: the low nibble with EN low (R77, R194). -/
def restByte (v mode bl : Byte) : Byte := v <<< 4 &&& 0xF0 ||| mode ||| bl

/-- The events of the bytes of a text sent as data, in order (R165). -/
def dataEvents (a : BusAddr) (bl : Byte) : List Byte → List Event
  | [] => []
  | v :: rest => byteEvents a v 0x01 bl ++ dataEvents a bl rest

/-- The expander's register after bytes sent as data (R194): the last byte's low nibble with EN low, or unchanged. -/
def dataExpOut (bl : Byte) (prev : ExpOut) : List Byte → ExpOut
  | [] => prev
  | v :: rest => dataExpOut bl (.known (restByte v 0x01 bl)) rest

/-- The events of begin's eleven steps, every bus operation acknowledged (R104–R114), where FUNC is `f`. -/
def beginEvents (a : BusAddr) (f bl : Byte) : List Event :=
  [.busInit .ack, .wait 40000, .write a (0x00 ||| bl) .ack, .wait 1000000]
    ++ nibbleEvents a 0x30 bl ++ [.wait 4500]
    ++ nibbleEvents a 0x30 bl ++ [.wait 4500]
    ++ nibbleEvents a 0x30 bl ++ [.wait 150]
    ++ nibbleEvents a 0x20 bl
    ++ byteEvents a (0x20 ||| f) 0x00 bl
    ++ byteEvents a 0x0C 0x00 bl
    ++ byteEvents a 0x01 0x00 bl ++ [.wait 2000]
    ++ byteEvents a 0x06 0x00 bl
    ++ byteEvents a 0x02 0x00 bl ++ [.wait 2000]

/-- One flag bit set or cleared, the others kept (R132–R136). -/
def withBit (v mask : Byte) (on : Bool) : Byte := if on then v ||| mask else v &&& ~~~ mask

/-! ### What a completed request leaves -/

/-- The state when request `q` has been taken in state `s`, has done `ops` bus operations with the events `evs`, left
the expander at `out`, and has completed with `OK` (R182, R191); register writes of the request come on top. -/
def State.completed (s : State) (q : Instr) (ops : Nat) (evs : List Event) (out : ExpOut) : State :=
  { s.afterDraws ops with
    trace := s.trace ++ [.accept q] ++ evs ++ [.complete .ok]
    uprog := expand q
    upc := (expand q).length
    curOp := none
    busy := false
    result := some .ok
    expOut := out }

/-- Taking `q` in state `s` answers a next state, and `n` more steps from it end in `t`. -/
def Completes (q : Instr) (s : State) (n : Nat) (t : State) : Prop :=
  exec q s = .next (s.accept q) ∧ Sys2Proof.core.run n (s.accept q) = .next t

/-! ### Observation -/

/-- The state with what no step reads set to fixed values: EXP_OUT, LINK, RESULT, TRACE and the refusal mark. -/
def State.unobserved (s : State) : State :=
  { s with expOut := .unknown, link := .unknown, result := none, trace := [], refusal := none }

/-- An outcome with its state so reduced. -/
def unobservedOutcome : Host.Outcome State Fault Refusal → Host.Outcome State Fault Refusal
  | .next s => .next s.unobserved
  | .fault r => .fault r
  | .refused r => .refused r

/-- A session's events to which whole bytes can be added: writes to one address only, the last of them with EN low,
and after the four init nibbles an even number of latches (R195). -/
structure WholeBytes (a : BusAddr) (evs : List Event) : Prop where
  oneAddress : ∀ x ∈ ackWrites evs, x.1 = a
  enLow : ∀ x, (ackWrites evs).getLast? = some x → enHigh x.2 = false
  initNibbles : 4 ≤ (latches evs).length
  even : (latches evs).length % 2 = 0

/-- A run in which every request was admitted: the premise "no refusal" of R214. -/
def State.noRefusal (s : State) : Prop := s.refusal = none

end Sys2Proof.Machine
end

