-- ==== Sys2Proof/Certificates/Slice0/Obligations.lean ====
section
/-! DEFINITION. The statements about the model. Each formalises the rules of spec/ its docstring names. -/

open Sys2Proof Sys2Proof.Machine

/-! ### Encoding -/

/-- R80, R81: the code alone, with operand bits 0, decodes to the request of that code; code 0xF to none. The byte
layout of the operands is the model's (log entry 5). -/
def Obligations.TableWordsDecodeToTheirRequests : Prop :=
  decodeTableWord 8 0x0 = some (.init 0 0 0 .dots5x8) ∧ decodeTableWord 8 0x1 = some .begin ∧
  decodeTableWord 8 0x2 = some .clear ∧ decodeTableWord 8 0x3 = some .home ∧
  decodeTableWord 8 0x4 = some (.setDisplay false) ∧ decodeTableWord 8 0x5 = some (.setCursor false) ∧
  decodeTableWord 8 0x6 = some (.setBlink false) ∧ decodeTableWord 8 0x7 = some (.scroll .left) ∧
  decodeTableWord 8 0x8 = some (.setEntryDirection false) ∧ decodeTableWord 8 0x9 = some (.setAutoscroll false) ∧
  decodeTableWord 8 0xA = some (.setBacklight false) ∧ decodeTableWord 8 0xB = some (.setCursorPosition 0 0) ∧
  decodeTableWord 8 0xC = some (.defineGlyph 0 ⟨0, 0, 0, 0, 0, 0, 0, 0⟩) ∧
  decodeTableWord 8 0xD = some (.writeChar 0) ∧ decodeTableWord 8 0xE = some (.writeText []) ∧
  decodeTableWord 8 0xF = none

/-- Every request, with every operand at every value, decodes from its own record; exactly the requests have one. The
byte layout is the model's (log entry 5). -/
def Obligations.DecodeInvertsEncode : Prop :=
  (∀ i r, encode i = some r → decode r = .ok i) ∧ (∀ i, (encode i).isSome = i.reqCode.isSome)

/-- No record has a second meaning: whatever decodes is the record of the request it decodes to, and that request is
well formed. -/
def Obligations.EncodeInvertsDecode : Prop :=
  ∀ r i, decode r = .ok i → encode i = some r ∧ i.wellFormed = true

/-- R71: reading and writing the fields of an expander byte are inverse, and the fields are the bits R71 names. -/
def Obligations.ExpanderByteFieldsRoundTrip : Prop :=
  (∀ v, encodeExp8 (decodeExp8 v) = v) ∧ (∀ x, decodeExp8 (encodeExp8 x) = x) ∧
  (∀ v, (decodeExp8 v).bl = v.getLsbD 3 ∧ (decodeExp8 v).en = v.getLsbD 2 ∧ (decodeExp8 v).rw = v.getLsbD 1 ∧
    (decodeExp8 v).rs = v.getLsbD 0 ∧ (decodeExp8 v).data = v.extractLsb' 4 4)

/-- R73: each command class's byte reads back as that class and those fields, and every byte but 0x00 is of some
class. -/
def Obligations.CommandClassesRoundTrip : Prop :=
  (∀ c : CmdClass, decodeCmd8 c.byte = some c) ∧ (∀ v : Byte, decodeCmd8 v = none ↔ v = 0x00)

/-- R79, R83, C1: the command bytes the requests send fall in the classes of R79: DISPLAY_CONTROL carries the three
flags of CTRL, ENTRY_MODE_SET always has its direction bit set, scroll always moves the display, and the DDRAM and CGRAM
addresses are the ones computed. -/
def Obligations.CommandBytesCarryTheirFields : Prop :=
  (∀ c : Byte, c &&& 0xF8 = 0 → decodeCmd8 (0x08 ||| c) = some (.displayControl (ctrlD c) (ctrlC c) (ctrlB c))) ∧
  (∀ e : Byte, e &&& 0xFC = 0 → decodeCmd8 (0x06 ||| e) = some (.entryModeSet true (entryS e))) ∧
  (∀ dir, decodeCmd8 (scrollCmd dir) = some (.cursorShift true (dir = .right))) ∧
  (∀ r z, decodeCmd8 (0x20 ||| funcFlags r z) =
    some (.functionSet false (decide (r.toNat > 1)) (decide (z = .dots5x10 ∧ r.toNat = 1)))) ∧
  (∀ slot : BitVec 3, decodeCmd8 (cgramCmd slot) = some (.setCgramAddr (slot.zeroExtend 6 <<< 3))) ∧
  (∀ col off : Byte, decodeCmd8 (ddramByte col off) = some (.setDdramAddr (BitVec.ofNat 7 (col.toNat + off.toNat))))

/-- R85: a request written as a line reads back as that request. -/
def Obligations.TextSyntaxRoundTrip : Prop :=
  ∀ i line, Text.render i = some line → Text.parse line = some i

/-! ### The step -/

/-- R182, R198: an idle block takes the host's oldest record, and the step is the decoded request's meaning in the
state with that record taken. -/
def Obligations.StepRunsTheDecodedRequest : Prop :=
  ∀ (s : State) r rest i, s.busy = false → s.inbox = r :: rest → decode r = .ok i →
    step s = exec i { s with inbox := rest }

/-- R33, R183–R186, R198: while a request runs, the step is the meaning of the micro-operation at UPC. -/
def Obligations.StepExecutesTheMicroOperationAtUpc : Prop :=
  ∀ (s : State) m, s.busy = true → s.uprog[s.upc]? = some m → step s = exec m.toInstr s

/-- R191, R115: at the end of its micro-program the request completes with OK; begin also moves PHASE to Ready and LINK
to Synced; nothing else changes. -/
def Obligations.StepCompletesAtTheEndOfTheProgram : Prop :=
  ∀ s : State, s.busy = true → s.upc = s.uprog.length →
    step s = .next { s with
      phase := if s.curOp = some .begin then .ready else s.phase
      link := if s.curOp = some .begin then .synced else s.link
      result := some .ok
      trace := s.trace ++ [.complete .ok]
      busy := false
      curOp := none }

/-- R230, R242: an idle block with no request stays as it is. -/
def Obligations.IdleBlockStaysIdle : Prop :=
  ∀ s : State, s.busy = false → s.inbox = [] → step s = .next s

/-- R182, R246: a request given while BUSY = 1 is held at the host interface and nothing else happens; and a step of a
busy block takes no request. That the host interface is a list and that a held request goes to its end are the model's
choice (log entries 3 and 10). -/
def Obligations.BusyBlockHoldsRequests : Prop :=
  (∀ (s : State) q r, s.busy = true → encode q = some r → exec q s = .next { s with inbox := s.inbox ++ [r] }) ∧
  (∀ s t : State, s.busy = true → step s = .next t → t.inbox = s.inbox)

/-- R82, R182, R214: REQ code 0xF is refused in any phase; nothing changes but the mark (kept if already set). -/
def Obligations.UnassignedCodeIsRefused : Prop :=
  ∀ (s : State) ops rest, s.busy = false → s.inbox = (0x0F :: ops) :: rest →
    step s = .next { s with inbox := rest, refusal := some (s.refusal.getD .unknownRequest) }

/-- R182, R214: init is refused once configured; begin before init; every other request before init and before begin.
The request is not performed and nothing changes but the refusal mark (kept if already set). -/
def Obligations.OutOfOrderRequestsAreRefused : Prop :=
  ∀ s : State, s.busy = false →
    (s.phase ≠ .unconfigured → ∀ a c r z,
      exec (.init a c r z) s = .next { s with refusal := some (s.refusal.getD .alreadyConfigured) }) ∧
    (s.phase = .unconfigured → exec .begin s = .next { s with refusal := some (s.refusal.getD .noConfig) }) ∧
    (∀ q, q.reqCode.isSome → q.reqCode ≠ some 0 → q ≠ .begin →
      (s.phase = .unconfigured → exec q s = .next { s with refusal := some (s.refusal.getD .noConfig) }) ∧
      (s.phase = .configured → exec q s = .next { s with refusal := some (s.refusal.getD .notBegun) }))

/-! ### init -/

/-- R100–R102, R212: init (code 0x0) is one step. In phase Unconfigured with nonzero cols and rows it sets the
configuration, FUNC, BL and PHASE and reports OK; with a zero count it reports the first zero field in the order cols,
rows; in any other phase it is refused. Nothing else changes: no CTRL, no ENTRY, no bus access, BUSY stays 0. That a
refusal is a next state with the mark, and that an earlier mark is kept, are the model's choice (log entry 2). -/
def Obligations.InitIsOneAtomicStep : Prop :=
  ∀ (s : State) a c r z, (Instr.init a c r z).reqCode = some 0x0 ∧ (s.busy = false →
    (s.phase = .unconfigured → c ≠ 0 → r ≠ 0 → exec (.init a c r z) s = .next { s with
      cfgAddr := some a
      cfgCols := some c
      cfgRows := some r
      cfgCharsize := some z
      func := some ((if r.toNat > 1 then 0x08 else 0x00) ||| (if z = .dots5x10 ∧ r.toNat = 1 then 0x04 else 0x00))
      bl := some 0x08
      phase := .configured
      result := some .ok
      trace := s.trace ++ [.accept (.init a c r z), .complete .ok] }) ∧
    (s.phase = .unconfigured → (c = 0 ∨ r = 0) → exec (.init a c r z) s = .next { s with
      result := some (.configError (if c = 0 then .cols else .rows))
      trace := s.trace ++ [.accept (.init a c r z),
        .complete (.configError (if c = 0 then .cols else .rows))] }) ∧
    (s.phase ≠ .unconfigured → exec (.init a c r z) s = .next { s with
      refusal := some (s.refusal.getD .alreadyConfigured) }))

/-- R26, R101: FUNC has DL = 0, N = 1 iff rows > 1, F = 1 iff 5x10 is asked for and rows = 1, and zeros elsewhere. -/
def Obligations.FunctionFlagsFollowTheGeometry : Prop :=
  ∀ r z, funcDL (funcFlags r z) = false ∧ funcN (funcFlags r z) = decide (r.toNat > 1) ∧
    funcF (funcFlags r z) = decide (z = .dots5x10 ∧ r.toNat = 1) ∧ funcFlags r z &&& 0xE3 = 0

/-! ### Whole requests: taken, run with every bus operation acknowledged, and completed -/

/-- R103–R115, R117: begin, in phase Configured or Ready, runs its 81 micro-operations in order (events as listed) and
completes: CTRL 0x04, ENTRY 0x02, PHASE Ready, LINK Synced, RESULT OK; configuration, FUNC and BL unchanged. -/
def Obligations.BeginRunsThePowerUpSequence : Prop :=
  ∀ (s : State) a f bl, s.busy = false → s.phase ≠ .unconfigured → s.cfgAddr = some a → s.func = some f →
    s.bl = some bl → s.nextAcks 44 →
    Completes .begin s 82 { s.completed .begin 44 (beginEvents a f bl) (.known (restByte 0x02 0x00 bl)) with
      ctrl := some 0x04
      entry := some 0x02
      phase := .ready
      link := .synced }

/-- R130, R131: clear sends 0x01 and home sends 0x02 as a command, then waits 2000 µs; no register changes. -/
def Obligations.ClearAndHomeSendTheirCommandAndWait : Prop :=
  ∀ (s : State) a bl, s.ReadyIdle a bl → s.nextAcks 6 →
    Completes .clear s 12
      (s.completed .clear 6 (byteEvents a 0x01 0x00 bl ++ [.wait 2000]) (.known (restByte 0x01 0x00 bl))) ∧
    Completes .home s 12
      (s.completed .home 6 (byteEvents a 0x02 0x00 bl ++ [.wait 2000]) (.known (restByte 0x02 0x00 bl)))

/-- R132–R134, R30: setDisplay, setCursor and setBlink set or clear one bit of CTRL, keep the others, and send
`0x08 | CTRL` with the whole new register. -/
def Obligations.DisplayFlagRequestsSendTheWholeRegister : Prop :=
  ∀ (s : State) a bl c on, s.ReadyIdle a bl → s.ctrl = some c → s.nextAcks 6 →
    Completes (.setDisplay on) s 12
      { s.completed (.setDisplay on) 6 (byteEvents a (0x08 ||| withBit c 0x04 on) 0x00 bl)
          (.known (restByte (0x08 ||| withBit c 0x04 on) 0x00 bl)) with ctrl := some (withBit c 0x04 on) } ∧
    Completes (.setCursor on) s 12
      { s.completed (.setCursor on) 6 (byteEvents a (0x08 ||| withBit c 0x02 on) 0x00 bl)
          (.known (restByte (0x08 ||| withBit c 0x02 on) 0x00 bl)) with ctrl := some (withBit c 0x02 on) } ∧
    Completes (.setBlink on) s 12
      { s.completed (.setBlink on) 6 (byteEvents a (0x08 ||| withBit c 0x01 on) 0x00 bl)
          (.known (restByte (0x08 ||| withBit c 0x01 on) 0x00 bl)) with ctrl := some (withBit c 0x01 on) }

/-- R135, R136, R30: setEntryDirection and setAutoscroll set or clear one bit of ENTRY, keep the others, and send
`0x06 | ENTRY` with the whole new register. -/
def Obligations.EntryModeRequestsSendTheWholeRegister : Prop :=
  ∀ (s : State) a bl e on, s.ReadyIdle a bl → s.entry = some e → s.nextAcks 6 →
    Completes (.setEntryDirection on) s 12
      { s.completed (.setEntryDirection on) 6 (byteEvents a (0x06 ||| withBit e 0x02 on) 0x00 bl)
          (.known (restByte (0x06 ||| withBit e 0x02 on) 0x00 bl)) with entry := some (withBit e 0x02 on) } ∧
    Completes (.setAutoscroll on) s 12
      { s.completed (.setAutoscroll on) 6 (byteEvents a (0x06 ||| withBit e 0x01 on) 0x00 bl)
          (.known (restByte (0x06 ||| withBit e 0x01 on) 0x00 bl)) with entry := some (withBit e 0x01 on) }

/-- R137: scroll sends 0x18 (Left) or 0x1C (Right) as a command; no register changes. -/
def Obligations.ScrollSendsTheCursorShift : Prop :=
  ∀ (s : State) a bl dir, s.ReadyIdle a bl → s.nextAcks 6 →
    Completes (.scroll dir) s 11
      (s.completed (.scroll dir) 6 (byteEvents a (if dir = .right then 0x1C else 0x18) 0x00 bl)
        (.known (restByte (if dir = .right then 0x1C else 0x18) 0x00 bl)))

/-- R138: setBacklight writes BL and then one expander byte, `0x00 | BL` with the new BL; no command, no wait, and no
other register changes. -/
def Obligations.SetBacklightWritesOneByte : Prop :=
  ∀ (s : State) a old on, s.ReadyIdle a old → s.nextAcks 1 →
    Completes (.setBacklight on) s 3
      { s.completed (.setBacklight on) 1 [.write a (if on then 0x08 else 0x00) .ack]
          (.known (if on then 0x08 else 0x00)) with bl := some (if on then 0x08 else 0x00) }

/-- R160–R162, R35, C3: setCursorPosition with a clamped row below 4 sends `0x80 | ((col + ROW_OFFSET[row']) & 0x7F)`
as a command; the column is not checked and no register changes. -/
def Obligations.SetCursorPositionSendsTheDdramAddress : Prop :=
  ∀ (s : State) a bl rows col row off, s.ReadyIdle a bl → s.cfgRows = some rows → s.nextAcks 6 →
    [(0x00 : Byte), 0x40, 0x14, 0x54][if row.toNat > rows.toNat then rows.toNat - 1 else row.toNat]? = some off →
    Completes (.setCursorPosition col row) s 11
      (s.completed (.setCursorPosition col row) 6
        (byteEvents a (0x80 ||| BitVec.ofNat 8 ((col.toNat + off.toNat) % 128)) 0x00 bl)
        (.known (restByte (0x80 ||| BitVec.ofNat 8 ((col.toNat + off.toNat) % 128)) 0x00 bl)))

/-- R160, R161, I4: with a clamped row of 4 or more the request is taken and the next step, its first write, faults
before anything is written. -/
def Obligations.SetCursorPositionFaultsPastTheTable : Prop :=
  ∀ (s : State) a bl rows col row, s.ReadyIdle a bl → s.cfgRows = some rows →
    4 ≤ (if row.toNat > rows.toNat then rows.toNat - 1 else row.toNat) →
    exec (.setCursorPosition col row) s = .next (s.accept (.setCursorPosition col row)) ∧
    step (s.accept (.setCursorPosition col row)) = .fault .rowOffsetOutOfTable

/-- R163: defineGlyph sends the command `0x40 + 8·slot`, then the eight pattern bytes in order, unmasked, as data; no
register changes. -/
def Obligations.DefineGlyphSendsTheAddressAndThePattern : Prop :=
  ∀ (s : State) a bl slot p, s.ReadyIdle a bl → s.nextAcks 54 →
    Completes (.defineGlyph slot p) s 91
      (s.completed (.defineGlyph slot p) 54
        (byteEvents a (BitVec.ofNat 8 (0x40 + 8 * slot.toNat)) 0x00 bl ++ dataEvents a bl p.toList)
        (.known (restByte p.p7 0x01 bl)))

/-- R164: writeChar sends its byte as data; no register changes. -/
def Obligations.WriteCharSendsOneDataByte : Prop :=
  ∀ (s : State) a bl v, s.ReadyIdle a bl → s.nextAcks 6 →
    Completes (.writeChar v) s 11
      (s.completed (.writeChar v) 6 (byteEvents a v 0x01 bl) (.known (restByte v 0x01 bl)))

/-- R165, R191: writeText sends its bytes as data, in order, and for an empty text completes with no bus traffic; no
register changes. -/
def Obligations.WriteTextSendsItsBytesInOrder : Prop :=
  ∀ (s : State) a bl bytes, s.ReadyIdle a bl → s.nextAcks (6 * bytes.length) →
    Completes (.writeText bytes) s (10 * bytes.length + 1)
      (s.completed (.writeText bytes) (6 * bytes.length) (dataEvents a bl bytes) (dataExpOut bl s.expOut bytes))

/-! ### Micro-operations and primitives -/

/-- R183, R193, R194: an acknowledged `W(x)` writes `x | BL` to CFG_ADDR, records it, replaces the expander's register
and advances UPC by 1; nothing else changes. -/
def Obligations.ExpanderWriteAcknowledged : Prop :=
  ∀ (s : State) x v bl a, evalExpr s x = .ok v → s.bl = some bl → s.cfgAddr = some a → s.nextDraw.answer = .ack →
    exec (.w x) s = .next { s.afterDraw with
      trace := s.trace ++ [.write a (v ||| bl) .ack]
      expOut := .known (v ||| bl)
      upc := s.upc + 1 }

/-- R183, R192, R194, R116, R217: a failed `W(x)` aborts the request with TransportError{kind, upc, byte}: LINK Suspect,
BUSY 0, CUR_OP none, UPC at the failing index, PHASE Configured if the request is begin; EXP_OUT is its previous value
or the byte; every other register keeps its value. -/
def Obligations.ExpanderWriteFailureAborts : Prop :=
  ∀ (s : State) x v bl a kind, evalExpr s x = .ok v → s.bl = some bl → s.cfgAddr = some a →
    s.nextDraw.answer = .err kind →
    exec (.w x) s = .next { s.afterDraw with
      trace := s.trace ++ [.write a (v ||| bl) (.err kind),
        .complete (.transportError { kind := kind, upc := s.upc, byte := some (v ||| bl) })]
      expOut := if s.nextDraw.taken then .known (v ||| bl) else s.expOut
      phase := if s.curOp = some .begin then .configured else s.phase
      link := .suspect
      result := some (.transportError { kind := kind, upc := s.upc, byte := some (v ||| bl) })
      busy := false
      curOp := none }

/-- R9, R20, R161: a `W` or `SET` whose operand does not evaluate ends in the operand's fault, and a `W` with BL or
CFG_ADDR at `⊥` faults too; an operand that reads FUNC, CTRL, ENTRY, BL or CFG_ROWS at `⊥`, wherever in the operand it
stands, does not evaluate, and `W`, `SET`, pulseNibble and sendByte with it end in its fault: UnwrittenRead of a register
it reads that holds `⊥`, or RowOffsetOutOfTable where a `ddram_cmd` in it comes first. Conversely UnwrittenRead names a
register that the operand reads and that holds `⊥`, and an operand that reads none evaluates, or is past the row table.
(pulseNibble and sendByte as instructions: log entry 7.) -/
def Obligations.UnwrittenReadsFault : Prop :=
  (∀ (s : State) x f, evalExpr s x = .error f → exec (.w x) s = .fault f) ∧
  (∀ (s : State) r e f, evalExpr s e = .error f → exec (.set r e) s = .fault f) ∧
  (∀ (s : State) x v, evalExpr s x = .ok v → s.bl = none → exec (.w x) s = .fault (.unwrittenRead .bl)) ∧
  (∀ (s : State) x v bl, evalExpr s x = .ok v → s.bl = some bl → s.cfgAddr = none →
    exec (.w x) s = .fault (.unwrittenRead .cfgAddr)) ∧
  (∀ s : State, s.func = none → evalExpr s (.reg .func) = .error (.unwrittenRead .func)) ∧
  (∀ s : State, s.ctrl = none → evalExpr s (.reg .ctrl) = .error (.unwrittenRead .ctrl)) ∧
  (∀ s : State, s.entry = none → evalExpr s (.reg .entry) = .error (.unwrittenRead .entry)) ∧
  (∀ s : State, s.bl = none → evalExpr s (.reg .bl) = .error (.unwrittenRead .bl)) ∧
  (∀ (s : State) col row, s.cfgRows = none → evalExpr s (.ddramCmd col row) = .error (.unwrittenRead .cfgRows)) ∧
  (∀ (s : State) e r, exprReads r e → s.unwritten r → ∃ f, evalExpr s e = .error f ∧
    (f = .rowOffsetOutOfTable ∧ exprReads .cfgRows e ∨
      ∃ r', f = .unwrittenRead r' ∧ exprReads r' e ∧ s.unwritten r') ∧
    exec (.w e) s = .fault f ∧ (∀ x, exec (.set x e) s = .fault f) ∧ exec (.pulseNibble e) s = .fault f ∧
    ∀ m, exec (.sendByte e m) s = .fault f) ∧
  (∀ (s : State) e r, evalExpr s e = .error (.unwrittenRead r) → exprReads r e ∧ s.unwritten r) ∧
  (∀ (s : State) e, (∀ r, exprReads r e → ¬ s.unwritten r) →
    (∃ v, evalExpr s e = .ok v) ∨ (evalExpr s e = .error .rowOffsetOutOfTable ∧ exprReads .cfgRows e))

/-- R184: `T(t)` records its minimum and advances UPC by 1; it cannot fail and nothing else changes. -/
def Obligations.WaitRecordsItsMinimum : Prop :=
  ∀ (s : State) us, exec (.t us) s = .next { s with trace := s.trace ++ [.wait us], upc := s.upc + 1 }

/-- R185, R192, R116: `B` records the transport's answer; `Ok` advances UPC by 1, `Err` aborts with
TransportError{kind, upc, none}; no expander write, and every other register keeps its value. -/
def Obligations.BusAcquisitionAdvancesOrAborts : Prop :=
  (∀ s : State, s.nextDraw.answer = .ack →
    exec .b s = .next { s.afterDraw with trace := s.trace ++ [.busInit .ack], upc := s.upc + 1 }) ∧
  (∀ (s : State) kind, s.nextDraw.answer = .err kind →
    exec .b s = .next { s.afterDraw with
      trace := s.trace ++ [.busInit (.err kind),
        .complete (.transportError { kind := kind, upc := s.upc, byte := none })]
      phase := if s.curOp = some .begin then .configured else s.phase
      link := .suspect
      result := some (.transportError { kind := kind, upc := s.upc, byte := none })
      busy := false
      curOp := none })

/-- R186: `SET(X, e)` writes the value of `e` into X and advances UPC by 1; no event, and nothing else changes. -/
def Obligations.SetWritesItsRegister : Prop :=
  ∀ (s : State) e v, evalExpr s e = .ok v →
    exec (.set .ctrl e) s = .next { s with ctrl := some v, upc := s.upc + 1 } ∧
    exec (.set .entry e) s = .next { s with entry := some v, upc := s.upc + 1 } ∧
    exec (.set .bl e) s = .next { s with bl := some v, upc := s.upc + 1 }

/-- R77, R187: `NIBBLE(n)` makes three writes `n | BL`, `n | EN | BL`, `(n & ~EN) | BL` with waits of 1 and 50 µs where
R187 puts them, five micro-operations in all. That the primitive, as an instruction, runs them in one step is the model's
reading (log entry 7). -/
def Obligations.NibbleTransferMakesThreeWrites : Prop :=
  ∀ (s : State) n n8 bl a, evalExpr s n = .ok n8 → s.bl = some bl → s.cfgAddr = some a → s.nextAcks 3 →
    exec (.pulseNibble n) s = .next { s.afterDraws 3 with
      trace := s.trace ++ nibbleEvents a n8 bl
      expOut := .known (n8 &&& 0xFB ||| bl)
      upc := s.upc + 5 }

/-- R188–R190, R52, R53, R78: `BYTE(v, m)` makes two nibble transfers, the high nibble first, each in bits 7:4 with the
mode in bit 0, ten micro-operations in all. That the primitive, as an instruction, runs them in one step is the model's
reading (log entry 7). -/
def Obligations.ByteTransferSendsHighNibbleFirst : Prop :=
  ∀ (s : State) v v8 m bl a, evalExpr s v = .ok v8 → s.bl = some bl → s.cfgAddr = some a → s.nextAcks 6 →
    exec (.sendByte v m) s = .next { s.afterDraws 6 with
      trace := s.trace ++ byteEvents a v8 (if m = .data then 0x01 else 0x00) bl
      expOut := .known (restByte v8 (if m = .data then 0x01 else 0x00) bl)
      upc := s.upc + 10 }

/-- R187, R188, R86: where the micro-program at UPC is that of a primitive, the primitive's meaning is what the next
steps do one by one: all of them if none fails, or those up to the one that aborts or faults. The one-step meaning of a
primitive is the model's reading (log entry 7). -/
def Obligations.PrimitivesAreTheirMicroOperations : Prop :=
  ∀ (s : State) i ms post, (∃ n, i = .pulseNibble n ∧ ms = nibbleProg n) ∨ (∃ v m, i = .sendByte v m ∧ ms = byteProg v m) →
    s.busy = true → s.uprog.drop s.upc = ms ++ post →
    ((∃ t, exec i s = .next t ∧ t.busy = true ∧ Sys2Proof.core.run ms.length s = .next t) ∨
     (∃ t k, exec i s = .next t ∧ t.busy = false ∧ k < ms.length ∧ Sys2Proof.core.run (k + 1) s = .next t) ∨
     (∃ f k, exec i s = .fault f ∧ k < ms.length ∧ Sys2Proof.core.run (k + 1) s = .fault f))

/-- R187, R192: if the EN-low write of a nibble fails and the byte did not reach the expander, the request aborts at
that write and the expander is left with EN = 1. The primitive as one instruction is the model's reading (log entry 7),
and so is the field `taken` of the draw, whether the byte reached the expander (log entry 18). -/
def Obligations.FailedEnableLowLeavesEnableHigh : Prop :=
  ∀ (s : State) n n8 bl a kind, evalExpr s n = .ok n8 → s.bl = some bl → s.cfgAddr = some a → s.nextAcks 2 →
    (s.afterDraws 2).nextDraw = { answer := .err kind, taken := false } →
    ∃ t, exec (.pulseNibble n) s = .next t ∧ t.expOut = .known (n8 ||| 0x04 ||| bl) ∧ t.upc = s.upc + 3 ∧
      t.busy = false ∧ t.link = .suspect ∧
      t.result = some (.transportError { kind := kind, upc := s.upc + 3, byte := some (n8 &&& 0xFB ||| bl) })

/-- R192, R217: an abort is precise. If the micro-operations before the one at index `pre.length` completed and that
one aborts, the run ends there: UPC keeps the failing index, UPROG is unchanged, the block is idle, and the state is the
one the micro-operations before it left, changed by the failing one alone. -/
def Obligations.AbortIsPrecise : Prop :=
  ∀ (s t u : State) pre m post, s.busy = true → s.upc = 0 → s.uprog = pre ++ m :: post →
    microRun pre s = .advanced t → micro m t = .aborted u →
    Sys2Proof.core.run (pre.length + 1) s = .next u ∧ u.upc = pre.length ∧ u.uprog = s.uprog ∧ u.busy = false

/-! ### The whole machine -/

/-- R42, R240: every element at reset. That there is no refusal mark, and that the model's own fields (the inputs and
the draw counter) are empty or 0, are the model's choice (log entries 2, 3 and 4). -/
def Obligations.ResetLeavesEveryElement : Prop :=
  State.reset.cfgAddr = none ∧ State.reset.cfgCols = none ∧ State.reset.cfgRows = none ∧
  State.reset.cfgCharsize = none ∧ State.reset.func = none ∧ State.reset.ctrl = none ∧ State.reset.entry = none ∧
  State.reset.bl = none ∧ State.reset.phase = .unconfigured ∧ State.reset.busy = false ∧ State.reset.curOp = none ∧
  State.reset.uprog = [] ∧ State.reset.upc = 0 ∧ State.reset.result = none ∧ State.reset.expOut = .unknown ∧
  State.reset.link = .unknown ∧ State.reset.trace = [] ∧ State.reset.refusal = none ∧
  State.reset.inbox = [] ∧ State.reset.script = [] ∧ State.reset.draws = 0

/-- The invariant holds at reset. -/
def Obligations.ResetMeetsTheInvariant : Prop := State.reset.Inv

/-- The invariant (registers in their legal values for the phase, UPROG the micro-program of CUR_OP, UPC within it,
every write to CFG_ADDR with RW = 0) is kept by every step. -/
def Obligations.StepKeepsTheInvariant : Prop :=
  ∀ s t : State, s.Inv → step s = .next t → t.Inv

/-- R20, R241: in a state that meets the invariant, no step reads a register that holds `⊥`, the sequencer is never
stuck, and a fault is RowOffsetOutOfTable at the first write of a setCursorPosition. -/
def Obligations.OnlyTheRowTableFaults : Prop :=
  ∀ (s : State) f, s.Inv → step s = .fault f →
    f = .rowOffsetOutOfTable ∧ s.upc = 0 ∧ ∃ col row, s.curOp = some (.setCursorPosition col row)

/-- R22–R26: once configured, no step changes the configuration or FUNC. -/
def Obligations.ConfigurationIsNeverMutated : Prop :=
  ∀ s t : State, s.phase ≠ .unconfigured → step s = .next t →
    t.cfgAddr = s.cfgAddr ∧ t.cfgCols = s.cfgCols ∧ t.cfgRows = s.cfgRows ∧ t.cfgCharsize = s.cfgCharsize ∧
    t.func = s.func

/-- R186, R100, R41: CTRL and ENTRY change only by a `SET` of that register; BL only by a `SET(BL, …)` or by an init
request that the step takes. -/
def Obligations.FlagRegistersChangeOnlyBySet : Prop :=
  ∀ s t : State, step s = .next t →
    (t.ctrl ≠ s.ctrl → s.busy = true ∧ ∃ e, s.uprog[s.upc]? = some (.set .ctrl e)) ∧
    (t.entry ≠ s.entry → s.busy = true ∧ ∃ e, s.uprog[s.upc]? = some (.set .entry e)) ∧
    (t.bl ≠ s.bl → (s.busy = true ∧ ∃ e, s.uprog[s.upc]? = some (.set .bl e)) ∨
      (s.busy = false ∧ s.phase = .unconfigured ∧ t.bl = some 0x08 ∧ t.phase = .configured ∧
        ∃ r rest a c w z, s.inbox = r :: rest ∧ decode r = .ok (.init a c w z)))

/-- R39: TRACE is append-only. -/
def Obligations.TraceIsAppendOnly : Prop :=
  ∀ s t : State, step s = .next t → ∃ es, t.trace = s.trace ++ es ∧ es.length ≤ 2

/-- R33: a micro-operation that completes advances UPC by exactly 1 and no micro-operation jumps or changes UPROG; an
abort leaves UPC at the failing index. -/
def Obligations.MicroOperationsNeverJump : Prop :=
  ∀ (s t : State) m, s.busy = true → s.uprog[s.upc]? = some m → step s = .next t →
    t.uprog = s.uprog ∧
    ((t.busy = true ∧ t.curOp = s.curOp ∧ t.upc = s.upc + 1) ∨
     (t.busy = false ∧ t.curOp = none ∧ t.upc = s.upc))

/-- R196: only a begin that completes sets LINK to Synced and only an abort sets it to Suspect; nothing else writes
LINK. -/
def Obligations.OnlyBeginAndAbortsWriteLink : Prop :=
  ∀ s t : State, step s = .next t → t.link ≠ s.link →
    (t.link = .synced ∧ s.busy = true ∧ s.curOp = some .begin ∧ s.upc = s.uprog.length) ∨
    (t.link = .suspect ∧ s.busy = true ∧ t.busy = false ∧ ∃ info, t.result = some (.transportError info))

/-- R31: the only phase changes are an init request completing, begin completing and begin aborting. -/
def Obligations.PhaseMovesOnlyByInitAndBegin : Prop :=
  ∀ s t : State, step s = .next t → t.phase ≠ s.phase →
    (s.phase = .unconfigured ∧ t.phase = .configured ∧ s.busy = false ∧ t.result = some .ok ∧
      ∃ r rest a c w z, s.inbox = r :: rest ∧ decode r = .ok (.init a c w z)) ∨
    (t.phase = .ready ∧ s.busy = true ∧ s.curOp = some .begin ∧ s.upc = s.uprog.length ∧ t.result = some .ok) ∨
    (t.phase = .configured ∧ s.busy = true ∧ s.curOp = some .begin ∧ t.link = .suspect)

/-- R37–R39, R34: EXP_OUT, LINK, RESULT, TRACE and the refusal mark are never read: two states that differ in nothing
else step to outcomes that differ in nothing else. -/
def Obligations.ObservationStateIsNeverRead : Prop :=
  ∀ s : State, unobservedOutcome (step s) = unobservedOutcome (step s.unobserved)

/-- R214: the refusal mark is kept, and a step that sets it does nothing else but take the refused record off the host
interface: no event, no result, no register. That the refused record is taken and the block goes on is the model's choice
(log entry 2). -/
def Obligations.RefusalMarkIsSetAloneAndKept : Prop :=
  ∀ s t : State, step s = .next t →
    (∀ r, s.refusal = some r → t.refusal = some r) ∧
    (∀ r, s.refusal = none → t.refusal = some r →
      s.busy = false ∧ t = { s with inbox := s.inbox.tail, refusal := some r })

/-- R193, R72, R22: every write a step adds to the trace of a state that meets the invariant goes to CFG_ADDR, has the
backlight bit of BL and has RW = 0. -/
def Obligations.EveryWriteCarriesTheBacklight : Prop :=
  ∀ (s t : State) a v o, s.Inv → step s = .next t → Event.write a v o ∈ t.trace.drop s.trace.length →
    s.cfgAddr = some a ∧ v.getLsbD 1 = false ∧ ∃ bl, s.bl = some bl ∧ v.getLsbD 3 = bl.getLsbD 3

/-- Every micro-operation of a request's micro-program is well formed: no operand of a `W` sets RW or the backlight bit,
every wait is one of the minima, every `SET` value is legal for its register (R183, R252, R26–R29). -/
def Obligations.MicroProgramsAreWellFormed : Prop :=
  ∀ q m, q.reqCode.isSome → m ∈ expand q → m.toInstr.wellFormed = true

/-- R243: from phase Unconfigured, init with nonzero counts and then begin with every bus operation acknowledged reach
phase Ready with LINK Synced, CTRL 0x04, ENTRY 0x02 and BL 0x08, and no refusal. The list of offered records is the
model's host interface (log entry 3). -/
def Obligations.BootSequenceReachesReady : Prop :=
  ∀ (s : State) a c r z ri rb rest, s.phase = .unconfigured → s.busy = false → c ≠ 0 → r ≠ 0 →
    encode (.init a c r z) = some ri → encode .begin = some rb → s.inbox = ri :: rb :: rest →
    s.nextAcks 44 → s.noRefusal →
    ∃ t, Sys2Proof.core.run 84 s = .next t ∧ t.phase = .ready ∧ t.link = .synced ∧ t.busy = false ∧
      t.result = some .ok ∧ t.cfgAddr = some a ∧ t.cfgCols = some c ∧ t.cfgRows = some r ∧ t.cfgCharsize = some z ∧
      t.func = some (funcFlags r z) ∧ t.ctrl = some 0x04 ∧ t.entry = some 0x02 ∧ t.bl = some 0x08 ∧
      t.inbox = rest ∧ t.noRefusal

/-! ### Observation and time -/

/-- R195, R188: an acknowledged byte transfer latches exactly two nibbles, the high one and then the low one, both with the
byte's RS, and they pair to the byte sent. -/
def Obligations.ByteTransferLatchesTheByte : Prop :=
  ∀ (a : BusAddr) (v bl : Byte) (m : Mode), (bl = 0x08 ∨ bl = 0x00) →
    latches (byteEvents a v (modeBits m) bl) =
      [{ rs := decide (m = .data), d := v.extractLsb' 4 4 }, { rs := decide (m = .data), d := v.extractLsb' 0 4 }] ∧
    pairUp (latches (byteEvents a v (modeBits m) bl)) = [{ rs := decide (m = .data), value := v }]

/-- R195, R165: in a session whose transfers are whole bytes, the events of a completed writeText add exactly its bytes
to the wire bytes, as data and in order. Where a session begins and ends is the model's reading (log entry 13). -/
def Obligations.TextAppearsOnTheWire : Prop :=
  ∀ (tr evs : List Event) (a : BusAddr) (bl : Byte) (bytes : List Byte), session tr = some (true, evs) →
    WholeBytes a evs → (bl = 0x08 ∨ bl = 0x00) →
    ∃ ws, wireBytes tr = some ws ∧
      wireBytes (tr ++ [.accept (.writeText bytes)] ++ dataEvents a bl bytes ++ [.complete .ok]) =
        some (ws ++ bytes.map fun v => { rs := true, value := v })

/-- R195, R103: the wire bytes of a begin alone are the five commands `0x20 | FUNC`, 0x0C, 0x01, 0x06, 0x02; the four
init nibbles are dropped. Where a session begins and ends is the model's reading (log entry 13). -/
def Obligations.BeginPutsFiveCommandsOnTheWire : Prop :=
  ∀ (tr : List Event) (a : BusAddr) (f bl : Byte), (bl = 0x08 ∨ bl = 0x00) →
    wireBytes (tr ++ [.accept .begin] ++ beginEvents a f bl ++ [.complete .ok]) =
      some ([0x20 ||| f, 0x0C, 0x01, 0x06, 0x02].map fun v => { rs := false, value := v })

/-- R138, R195 item 2: a backlight-only write after an EN-low write latches nothing. -/
def Obligations.BacklightWriteLatchesNothing : Prop :=
  ∀ (tr : List Event) (a : BusAddr) (bl : Byte), (bl = 0x08 ∨ bl = 0x00) →
    (∀ x ∈ ackWrites tr, x.1 = a) → (∀ x, (ackWrites tr).getLast? = some x → enHigh x.2 = false) →
    latches (tr ++ [.write a bl .ack]) = latches tr

/-- R253, R103: the number of micro-operations of each kind and the minimum duration of every request, of one
nibble and of one byte. -/
def Obligations.RequestsHaveTheirMinimumDurations : Prop :=
  (∀ a c r z, countUops (expand (.init a c r z)) = { w := 0, t := 0, b := 0, set := 0 } ∧
    progMinWait (expand (.init a c r z)) = 0) ∧
  (∀ n, countUops (expand (.pulseNibble n)) = { w := 3, t := 2, b := 0, set := 0 } ∧
    progMinWait (expand (.pulseNibble n)) = 51) ∧
  (∀ v m, countUops (expand (.sendByte v m)) = { w := 6, t := 4, b := 0, set := 0 } ∧
    progMinWait (expand (.sendByte v m)) = 102) ∧
  countUops (expand .begin) = { w := 43, t := 35, b := 1, set := 2 } ∧ progMinWait (expand .begin) = 1053864 ∧
  (∀ q ∈ [Instr.clear, .home], countUops (expand q) = { w := 6, t := 5, b := 0, set := 0 } ∧
    progMinWait (expand q) = 2102) ∧
  (∀ on, ∀ q ∈ [Instr.setDisplay on, .setCursor on, .setBlink on, .setEntryDirection on, .setAutoscroll on],
    countUops (expand q) = { w := 6, t := 4, b := 0, set := 1 } ∧ progMinWait (expand q) = 102) ∧
  (∀ dir col row v, ∀ q ∈ [Instr.scroll dir, .setCursorPosition col row, .writeChar v],
    countUops (expand q) = { w := 6, t := 4, b := 0, set := 0 } ∧ progMinWait (expand q) = 102) ∧
  (∀ on, countUops (expand (.setBacklight on)) = { w := 1, t := 0, b := 0, set := 1 } ∧
    progMinWait (expand (.setBacklight on)) = 0) ∧
  (∀ slot p, countUops (expand (.defineGlyph slot p)) = { w := 54, t := 36, b := 0, set := 0 } ∧
    progMinWait (expand (.defineGlyph slot p)) = 918) ∧
  (∀ bytes : List Byte,
    countUops (expand (.writeText bytes)) = { w := 6 * bytes.length, t := 4 * bytes.length, b := 0, set := 0 } ∧
    progMinWait (expand (.writeText bytes)) = 102 * bytes.length)

/-- R62, R197, R180: in a legal schedule, the waits between two events keep them apart by at least the sum of their
minima; and a write answered `Timeout` takes at least the bus timeout. -/
def Obligations.WaitsSeparateTheirNeighbours : Prop :=
  (∀ (pre between post : List Timed) (x y : Timed), legalSchedule (pre ++ x :: (between ++ y :: post)) →
    x.finish + minWait (between.map (·.event)) ≤ y.start) ∧
  (∀ (sched : List Timed) (x : Timed) a v, legalSchedule sched → x ∈ sched → x.event = .write a v (.err .timeout) →
    x.start + 1000 * Config.busTimeoutMs ≤ x.finish)

/-- R195 item 4, R196: after a failed write, or any abort, the wire bytes are not defined until the next begin completes;
and where the failed write cut an enable pulse short, by failing as its EN-high write or as the EN-low write after it,
the pulse's nibble latched or not as a free value says; elsewhere nothing more latched. The session bounds and the index
of the free value are the model's reading (log entry 13). -/
def Obligations.FailedWriteEndsTheWireBytes : Prop :=
  (∀ (tr evs : List Event) a v k, Event.accept .begin ∉ evs → wireBytes (tr ++ .write a v (.err k) :: evs) = none) ∧
  (∀ (tr evs after : List Event) a v k, Event.complete .ok ∉ after →
    wireBytes (tr ++ .write a v (.err k) :: (evs ++ .accept .begin :: after)) = none) ∧
  (∀ s t : State, s.busy = true → step s = .next t → t.busy = false → t.result ≠ some .ok →
    wireBytes t.trace = none) ∧
  (∀ (pre : List Event) (a : BusAddr) (v : Byte), v.getLsbD 2 = true →
    latchesUpToError pre a v = latches pre ++
      if Config.freeLatch pre.length then [{ rs := v.getLsbD 0, d := v.extractLsb' 4 4 }] else []) ∧
  (∀ (pre : List Event) (a : BusAddr) (v u : Byte), v.getLsbD 2 = false → lastAck a pre = some u →
    u.getLsbD 2 = true →
    latchesUpToError pre a v = latches pre ++
      if Config.freeLatch pre.length then [{ rs := u.getLsbD 0, d := u.extractLsb' 4 4 }] else []) ∧
  (∀ (pre : List Event) (a : BusAddr) (v : Byte), v.getLsbD 2 = false →
    (∀ u, lastAck a pre = some u → u.getLsbD 2 = false) → latchesUpToError pre a v = latches pre)
end

