-- ==== Sys2Proof/Laws/Decode.lean ====
section
/-! SUPPORT. What each operand decoder answers, said once, and what decodes at all. -/

namespace Sys2Proof

theorem decodeNone_ok {i j : Instr} {ops : List Byte} (h : decodeNone i ops = .ok j) : ops = [] ∧ j = i := by
  cases ops with
  | nil => exact ⟨rfl, (Except.ok.inj h).symm⟩
  | cons _ _ => simp [decodeNone] at h

theorem decodeOne_ok {α : Type} {f : Byte → Option α} {mk : α → Instr} {ops : List Byte} {j : Instr}
    (h : decodeOne f mk ops = .ok j) : ∃ x a, ops = [x] ∧ f x = some a ∧ j = mk a := by
  match ops, h with
  | [x], h =>
    cases hx : f x with
    | none => simp [decodeOne, hx] at h
    | some a =>
      simp only [decodeOne, hx, Except.ok.injEq] at h
      exact ⟨x, a, rfl, hx, h.symm⟩

theorem decodeInit_ok {ops : List Byte} {j : Instr} (h : decodeInit ops = .ok j) :
    ∃ a c r z addr cs, ops = [a, c, r, z] ∧ fieldAddr a = some addr ∧ fieldCharSize z = some cs ∧
      j = .init addr c r cs := by
  unfold decodeInit at h
  split at h
  · next a c r z =>
    split at h
    · next addr cs ha hz => exact ⟨a, c, r, z, addr, cs, rfl, ha, hz, (Except.ok.inj h).symm⟩
    · simp at h
  · simp at h
  · simp at h

theorem decodePosition_ok {ops : List Byte} {j : Instr} (h : decodePosition ops = .ok j) :
    ∃ c r, ops = [c, r] ∧ j = .setCursorPosition c r := by
  unfold decodePosition at h
  split at h
  · next c r => exact ⟨c, r, rfl, (Except.ok.inj h).symm⟩
  · simp at h
  · simp at h

theorem decodeGlyph_ok {ops : List Byte} {j : Instr} (h : decodeGlyph ops = .ok j) :
    ∃ (x : Byte) (slot : BitVec 3) (p : Glyph), ops = x :: p.toList ∧ fieldSlot x = some slot ∧
      j = .defineGlyph slot p := by
  unfold decodeGlyph at h
  split at h
  · next x p0 p1 p2 p3 p4 p5 p6 p7 =>
    split at h
    · next slot hs => exact ⟨x, slot, ⟨p0, p1, p2, p3, p4, p5, p6, p7⟩, rfl, hs, (Except.ok.inj h).symm⟩
    · simp at h
  · simp at h
  · simp at h

/-- The code of what decodes is the code in the record (R80, R82). -/
theorem decodeOperands_code {code : BitVec 4} {ops : List Byte} {i : Instr}
    (h : decodeOperands code ops = .ok i) : i.reqCode = some code := by
  unfold decodeOperands at h
  split at h <;> rename_i hc <;>
    first
      | (obtain ⟨_, _, _, _, _, _, -, -, -, rfl⟩ := decodeInit_ok h)
      | (obtain ⟨-, rfl⟩ := decodeNone_ok h)
      | (obtain ⟨_, _, -, rfl⟩ := decodePosition_ok h)
      | (obtain ⟨_, _, _, -, -, rfl⟩ := decodeGlyph_ok h)
      | (obtain ⟨_, _, -, -, rfl⟩ := decodeOne_ok h)
      | (obtain rfl := Except.ok.inj h)
      | simp at h
  all_goals exact congrArg some (BitVec.eq_of_toNat_eq hc.symm)

theorem decode_cons {c : Byte} {ops : List Byte} {i : Instr} (h : decode (c :: ops) = .ok i) :
    c &&& 0xF0 = 0 ∧ decodeOperands (c.truncate 4) ops = .ok i := by
  rw [decode] at h
  split at h
  · exact ⟨‹_›, h⟩
  · simp at h

/-- Whatever decodes is a request (R81, R86). -/
theorem decode_request {r : List Byte} {i : Instr} (h : decode r = .ok i) : i.reqCode.isSome := by
  cases r with
  | nil => simp [decode] at h
  | cons c ops => simp [decodeOperands_code (decode_cons h).2]

/-- Code 0xF is rejected by name, whatever follows it (R82). -/
theorem decode_unassigned (ops : List Byte) : decode (0x0F :: ops) = .error .unknownRequest := rfl

/-- The rejection by that name is code 0xF. -/
theorem decodeOperands_unknown {code : BitVec 4} {ops : List Byte}
    (h : decodeOperands code ops = .error .unknownRequest) : code = 0xF := by
  unfold decodeOperands at h
  split at h
  case h_16 h0 h1 h2 h3 h4 h5 h6 h7 h8 h9 hA hB hC hD hE =>
    apply BitVec.eq_of_toNat_eq
    have := code.isLt
    simp only [imp_false] at h0 h1 h2 h3 h4 h5 h6 h7 h8 h9 hA hB hC hD hE
    show code.toNat = 15
    omega
  all_goals exfalso; revert h
  all_goals
    first
      | (unfold decodeInit; split <;> first | (split <;> simp) | simp)
      | (unfold decodePosition; split <;> simp)
      | (unfold decodeGlyph; split <;> first | (split <;> simp) | simp)
      | (unfold decodeNone; split <;> simp)
      | (unfold decodeOne; split <;> first | (split <;> simp) | simp)
      | simp

end Sys2Proof
end

