-- ==== Sys2Proof/Laws/State.lean ====
section
/-! SUPPORT. One lemma per field for each named update of State, so that no proof unfolds a record update. -/

namespace Sys2Proof.Machine

variable (s : State)

/-! ### `State.emit` -/

@[simp] theorem State.emit_cfgAddr (e : Event) : (s.emit e).cfgAddr = s.cfgAddr := rfl
@[simp] theorem State.emit_cfgCols (e : Event) : (s.emit e).cfgCols = s.cfgCols := rfl
@[simp] theorem State.emit_cfgRows (e : Event) : (s.emit e).cfgRows = s.cfgRows := rfl
@[simp] theorem State.emit_cfgCharsize (e : Event) : (s.emit e).cfgCharsize = s.cfgCharsize := rfl
@[simp] theorem State.emit_func (e : Event) : (s.emit e).func = s.func := rfl
@[simp] theorem State.emit_ctrl (e : Event) : (s.emit e).ctrl = s.ctrl := rfl
@[simp] theorem State.emit_entry (e : Event) : (s.emit e).entry = s.entry := rfl
@[simp] theorem State.emit_bl (e : Event) : (s.emit e).bl = s.bl := rfl
@[simp] theorem State.emit_phase (e : Event) : (s.emit e).phase = s.phase := rfl
@[simp] theorem State.emit_busy (e : Event) : (s.emit e).busy = s.busy := rfl
@[simp] theorem State.emit_curOp (e : Event) : (s.emit e).curOp = s.curOp := rfl
@[simp] theorem State.emit_uprog (e : Event) : (s.emit e).uprog = s.uprog := rfl
@[simp] theorem State.emit_upc (e : Event) : (s.emit e).upc = s.upc := rfl
@[simp] theorem State.emit_result (e : Event) : (s.emit e).result = s.result := rfl
@[simp] theorem State.emit_expOut (e : Event) : (s.emit e).expOut = s.expOut := rfl
@[simp] theorem State.emit_link (e : Event) : (s.emit e).link = s.link := rfl
@[simp] theorem State.emit_trace (e : Event) : (s.emit e).trace = s.trace ++ [e] := rfl
@[simp] theorem State.emit_refusal (e : Event) : (s.emit e).refusal = s.refusal := rfl
@[simp] theorem State.emit_inbox (e : Event) : (s.emit e).inbox = s.inbox := rfl
@[simp] theorem State.emit_script (e : Event) : (s.emit e).script = s.script := rfl
@[simp] theorem State.emit_draws (e : Event) : (s.emit e).draws = s.draws := rfl

/-! ### `State.advance` -/

@[simp] theorem State.advance_cfgAddr : (s.advance).cfgAddr = s.cfgAddr := rfl
@[simp] theorem State.advance_cfgCols : (s.advance).cfgCols = s.cfgCols := rfl
@[simp] theorem State.advance_cfgRows : (s.advance).cfgRows = s.cfgRows := rfl
@[simp] theorem State.advance_cfgCharsize : (s.advance).cfgCharsize = s.cfgCharsize := rfl
@[simp] theorem State.advance_func : (s.advance).func = s.func := rfl
@[simp] theorem State.advance_ctrl : (s.advance).ctrl = s.ctrl := rfl
@[simp] theorem State.advance_entry : (s.advance).entry = s.entry := rfl
@[simp] theorem State.advance_bl : (s.advance).bl = s.bl := rfl
@[simp] theorem State.advance_phase : (s.advance).phase = s.phase := rfl
@[simp] theorem State.advance_busy : (s.advance).busy = s.busy := rfl
@[simp] theorem State.advance_curOp : (s.advance).curOp = s.curOp := rfl
@[simp] theorem State.advance_uprog : (s.advance).uprog = s.uprog := rfl
@[simp] theorem State.advance_upc : (s.advance).upc = s.upc + 1 := rfl
@[simp] theorem State.advance_result : (s.advance).result = s.result := rfl
@[simp] theorem State.advance_expOut : (s.advance).expOut = s.expOut := rfl
@[simp] theorem State.advance_link : (s.advance).link = s.link := rfl
@[simp] theorem State.advance_trace : (s.advance).trace = s.trace := rfl
@[simp] theorem State.advance_refusal : (s.advance).refusal = s.refusal := rfl
@[simp] theorem State.advance_inbox : (s.advance).inbox = s.inbox := rfl
@[simp] theorem State.advance_script : (s.advance).script = s.script := rfl
@[simp] theorem State.advance_draws : (s.advance).draws = s.draws := rfl

/-! ### `State.abort` -/

@[simp] theorem State.abort_cfgAddr (i : TransportInfo) : (s.abort i).cfgAddr = s.cfgAddr := rfl
@[simp] theorem State.abort_cfgCols (i : TransportInfo) : (s.abort i).cfgCols = s.cfgCols := rfl
@[simp] theorem State.abort_cfgRows (i : TransportInfo) : (s.abort i).cfgRows = s.cfgRows := rfl
@[simp] theorem State.abort_cfgCharsize (i : TransportInfo) : (s.abort i).cfgCharsize = s.cfgCharsize := rfl
@[simp] theorem State.abort_func (i : TransportInfo) : (s.abort i).func = s.func := rfl
@[simp] theorem State.abort_ctrl (i : TransportInfo) : (s.abort i).ctrl = s.ctrl := rfl
@[simp] theorem State.abort_entry (i : TransportInfo) : (s.abort i).entry = s.entry := rfl
@[simp] theorem State.abort_bl (i : TransportInfo) : (s.abort i).bl = s.bl := rfl
@[simp] theorem State.abort_phase (i : TransportInfo) : (s.abort i).phase = if isBegin s.curOp then .configured else s.phase := rfl
@[simp] theorem State.abort_busy (i : TransportInfo) : (s.abort i).busy = false := rfl
@[simp] theorem State.abort_curOp (i : TransportInfo) : (s.abort i).curOp = none := rfl
@[simp] theorem State.abort_uprog (i : TransportInfo) : (s.abort i).uprog = s.uprog := rfl
@[simp] theorem State.abort_upc (i : TransportInfo) : (s.abort i).upc = s.upc := rfl
@[simp] theorem State.abort_result (i : TransportInfo) : (s.abort i).result = some (.transportError i) := rfl
@[simp] theorem State.abort_expOut (i : TransportInfo) : (s.abort i).expOut = s.expOut := rfl
@[simp] theorem State.abort_link (i : TransportInfo) : (s.abort i).link = .suspect := rfl
@[simp] theorem State.abort_trace (i : TransportInfo) : (s.abort i).trace = s.trace ++ [.complete (.transportError i)] := rfl
@[simp] theorem State.abort_refusal (i : TransportInfo) : (s.abort i).refusal = s.refusal := rfl
@[simp] theorem State.abort_inbox (i : TransportInfo) : (s.abort i).inbox = s.inbox := rfl
@[simp] theorem State.abort_script (i : TransportInfo) : (s.abort i).script = s.script := rfl
@[simp] theorem State.abort_draws (i : TransportInfo) : (s.abort i).draws = s.draws := rfl

/-! ### `State.finish` -/

@[simp] theorem State.finish_cfgAddr : (s.finish).cfgAddr = s.cfgAddr := rfl
@[simp] theorem State.finish_cfgCols : (s.finish).cfgCols = s.cfgCols := rfl
@[simp] theorem State.finish_cfgRows : (s.finish).cfgRows = s.cfgRows := rfl
@[simp] theorem State.finish_cfgCharsize : (s.finish).cfgCharsize = s.cfgCharsize := rfl
@[simp] theorem State.finish_func : (s.finish).func = s.func := rfl
@[simp] theorem State.finish_ctrl : (s.finish).ctrl = s.ctrl := rfl
@[simp] theorem State.finish_entry : (s.finish).entry = s.entry := rfl
@[simp] theorem State.finish_bl : (s.finish).bl = s.bl := rfl
@[simp] theorem State.finish_phase : (s.finish).phase = if isBegin s.curOp then .ready else s.phase := rfl
@[simp] theorem State.finish_busy : (s.finish).busy = false := rfl
@[simp] theorem State.finish_curOp : (s.finish).curOp = none := rfl
@[simp] theorem State.finish_uprog : (s.finish).uprog = s.uprog := rfl
@[simp] theorem State.finish_upc : (s.finish).upc = s.upc := rfl
@[simp] theorem State.finish_result : (s.finish).result = some .ok := rfl
@[simp] theorem State.finish_expOut : (s.finish).expOut = s.expOut := rfl
@[simp] theorem State.finish_link : (s.finish).link = if isBegin s.curOp then .synced else s.link := rfl
@[simp] theorem State.finish_trace : (s.finish).trace = s.trace ++ [.complete .ok] := rfl
@[simp] theorem State.finish_refusal : (s.finish).refusal = s.refusal := rfl
@[simp] theorem State.finish_inbox : (s.finish).inbox = s.inbox := rfl
@[simp] theorem State.finish_script : (s.finish).script = s.script := rfl
@[simp] theorem State.finish_draws : (s.finish).draws = s.draws := rfl

/-! ### `State.accept` -/

@[simp] theorem State.accept_cfgAddr (q : Instr) : (s.accept q).cfgAddr = s.cfgAddr := rfl
@[simp] theorem State.accept_cfgCols (q : Instr) : (s.accept q).cfgCols = s.cfgCols := rfl
@[simp] theorem State.accept_cfgRows (q : Instr) : (s.accept q).cfgRows = s.cfgRows := rfl
@[simp] theorem State.accept_cfgCharsize (q : Instr) : (s.accept q).cfgCharsize = s.cfgCharsize := rfl
@[simp] theorem State.accept_func (q : Instr) : (s.accept q).func = s.func := rfl
@[simp] theorem State.accept_ctrl (q : Instr) : (s.accept q).ctrl = s.ctrl := rfl
@[simp] theorem State.accept_entry (q : Instr) : (s.accept q).entry = s.entry := rfl
@[simp] theorem State.accept_bl (q : Instr) : (s.accept q).bl = s.bl := rfl
@[simp] theorem State.accept_phase (q : Instr) : (s.accept q).phase = s.phase := rfl
@[simp] theorem State.accept_busy (q : Instr) : (s.accept q).busy = true := rfl
@[simp] theorem State.accept_curOp (q : Instr) : (s.accept q).curOp = some q := rfl
@[simp] theorem State.accept_uprog (q : Instr) : (s.accept q).uprog = expand q := rfl
@[simp] theorem State.accept_upc (q : Instr) : (s.accept q).upc = 0 := rfl
@[simp] theorem State.accept_result (q : Instr) : (s.accept q).result = s.result := rfl
@[simp] theorem State.accept_expOut (q : Instr) : (s.accept q).expOut = s.expOut := rfl
@[simp] theorem State.accept_link (q : Instr) : (s.accept q).link = s.link := rfl
@[simp] theorem State.accept_trace (q : Instr) : (s.accept q).trace = s.trace ++ [.accept q] := rfl
@[simp] theorem State.accept_refusal (q : Instr) : (s.accept q).refusal = s.refusal := rfl
@[simp] theorem State.accept_inbox (q : Instr) : (s.accept q).inbox = s.inbox := rfl
@[simp] theorem State.accept_script (q : Instr) : (s.accept q).script = s.script := rfl
@[simp] theorem State.accept_draws (q : Instr) : (s.accept q).draws = s.draws := rfl

/-! ### `State.refuse` -/

@[simp] theorem State.refuse_cfgAddr (r : RefuseReason) : (s.refuse r).cfgAddr = s.cfgAddr := rfl
@[simp] theorem State.refuse_cfgCols (r : RefuseReason) : (s.refuse r).cfgCols = s.cfgCols := rfl
@[simp] theorem State.refuse_cfgRows (r : RefuseReason) : (s.refuse r).cfgRows = s.cfgRows := rfl
@[simp] theorem State.refuse_cfgCharsize (r : RefuseReason) : (s.refuse r).cfgCharsize = s.cfgCharsize := rfl
@[simp] theorem State.refuse_func (r : RefuseReason) : (s.refuse r).func = s.func := rfl
@[simp] theorem State.refuse_ctrl (r : RefuseReason) : (s.refuse r).ctrl = s.ctrl := rfl
@[simp] theorem State.refuse_entry (r : RefuseReason) : (s.refuse r).entry = s.entry := rfl
@[simp] theorem State.refuse_bl (r : RefuseReason) : (s.refuse r).bl = s.bl := rfl
@[simp] theorem State.refuse_phase (r : RefuseReason) : (s.refuse r).phase = s.phase := rfl
@[simp] theorem State.refuse_busy (r : RefuseReason) : (s.refuse r).busy = s.busy := rfl
@[simp] theorem State.refuse_curOp (r : RefuseReason) : (s.refuse r).curOp = s.curOp := rfl
@[simp] theorem State.refuse_uprog (r : RefuseReason) : (s.refuse r).uprog = s.uprog := rfl
@[simp] theorem State.refuse_upc (r : RefuseReason) : (s.refuse r).upc = s.upc := rfl
@[simp] theorem State.refuse_result (r : RefuseReason) : (s.refuse r).result = s.result := rfl
@[simp] theorem State.refuse_expOut (r : RefuseReason) : (s.refuse r).expOut = s.expOut := rfl
@[simp] theorem State.refuse_link (r : RefuseReason) : (s.refuse r).link = s.link := rfl
@[simp] theorem State.refuse_trace (r : RefuseReason) : (s.refuse r).trace = s.trace := rfl
@[simp] theorem State.refuse_inbox (r : RefuseReason) : (s.refuse r).inbox = s.inbox := rfl
@[simp] theorem State.refuse_script (r : RefuseReason) : (s.refuse r).script = s.script := rfl
@[simp] theorem State.refuse_draws (r : RefuseReason) : (s.refuse r).draws = s.draws := rfl

/-! ### `State.configure` -/

@[simp] theorem State.configure_cfgAddr (a : BusAddr) (c r : Byte) (z : CharSize) : (s.configure a c r z).cfgAddr = some a := rfl
@[simp] theorem State.configure_cfgCols (a : BusAddr) (c r : Byte) (z : CharSize) : (s.configure a c r z).cfgCols = some c := rfl
@[simp] theorem State.configure_cfgRows (a : BusAddr) (c r : Byte) (z : CharSize) : (s.configure a c r z).cfgRows = some r := rfl
@[simp] theorem State.configure_cfgCharsize (a : BusAddr) (c r : Byte) (z : CharSize) : (s.configure a c r z).cfgCharsize = some z := rfl
@[simp] theorem State.configure_func (a : BusAddr) (c r : Byte) (z : CharSize) : (s.configure a c r z).func = some (funcFlags r z) := rfl
@[simp] theorem State.configure_ctrl (a : BusAddr) (c r : Byte) (z : CharSize) : (s.configure a c r z).ctrl = s.ctrl := rfl
@[simp] theorem State.configure_entry (a : BusAddr) (c r : Byte) (z : CharSize) : (s.configure a c r z).entry = s.entry := rfl
@[simp] theorem State.configure_bl (a : BusAddr) (c r : Byte) (z : CharSize) : (s.configure a c r z).bl = some Config.blBit := rfl
@[simp] theorem State.configure_phase (a : BusAddr) (c r : Byte) (z : CharSize) : (s.configure a c r z).phase = .configured := rfl
@[simp] theorem State.configure_busy (a : BusAddr) (c r : Byte) (z : CharSize) : (s.configure a c r z).busy = s.busy := rfl
@[simp] theorem State.configure_curOp (a : BusAddr) (c r : Byte) (z : CharSize) : (s.configure a c r z).curOp = s.curOp := rfl
@[simp] theorem State.configure_uprog (a : BusAddr) (c r : Byte) (z : CharSize) : (s.configure a c r z).uprog = s.uprog := rfl
@[simp] theorem State.configure_upc (a : BusAddr) (c r : Byte) (z : CharSize) : (s.configure a c r z).upc = s.upc := rfl
@[simp] theorem State.configure_result (a : BusAddr) (c r : Byte) (z : CharSize) : (s.configure a c r z).result = s.result := rfl
@[simp] theorem State.configure_expOut (a : BusAddr) (c r : Byte) (z : CharSize) : (s.configure a c r z).expOut = s.expOut := rfl
@[simp] theorem State.configure_link (a : BusAddr) (c r : Byte) (z : CharSize) : (s.configure a c r z).link = s.link := rfl
@[simp] theorem State.configure_trace (a : BusAddr) (c r : Byte) (z : CharSize) : (s.configure a c r z).trace = s.trace := rfl
@[simp] theorem State.configure_refusal (a : BusAddr) (c r : Byte) (z : CharSize) : (s.configure a c r z).refusal = s.refusal := rfl
@[simp] theorem State.configure_inbox (a : BusAddr) (c r : Byte) (z : CharSize) : (s.configure a c r z).inbox = s.inbox := rfl
@[simp] theorem State.configure_script (a : BusAddr) (c r : Byte) (z : CharSize) : (s.configure a c r z).script = s.script := rfl
@[simp] theorem State.configure_draws (a : BusAddr) (c r : Byte) (z : CharSize) : (s.configure a c r z).draws = s.draws := rfl

/-! ### `State.report` -/

@[simp] theorem State.report_cfgAddr (r : Result) : (s.report r).cfgAddr = s.cfgAddr := rfl
@[simp] theorem State.report_cfgCols (r : Result) : (s.report r).cfgCols = s.cfgCols := rfl
@[simp] theorem State.report_cfgRows (r : Result) : (s.report r).cfgRows = s.cfgRows := rfl
@[simp] theorem State.report_cfgCharsize (r : Result) : (s.report r).cfgCharsize = s.cfgCharsize := rfl
@[simp] theorem State.report_func (r : Result) : (s.report r).func = s.func := rfl
@[simp] theorem State.report_ctrl (r : Result) : (s.report r).ctrl = s.ctrl := rfl
@[simp] theorem State.report_entry (r : Result) : (s.report r).entry = s.entry := rfl
@[simp] theorem State.report_bl (r : Result) : (s.report r).bl = s.bl := rfl
@[simp] theorem State.report_phase (r : Result) : (s.report r).phase = s.phase := rfl
@[simp] theorem State.report_busy (r : Result) : (s.report r).busy = s.busy := rfl
@[simp] theorem State.report_curOp (r : Result) : (s.report r).curOp = s.curOp := rfl
@[simp] theorem State.report_uprog (r : Result) : (s.report r).uprog = s.uprog := rfl
@[simp] theorem State.report_upc (r : Result) : (s.report r).upc = s.upc := rfl
@[simp] theorem State.report_result (r : Result) : (s.report r).result = some r := rfl
@[simp] theorem State.report_expOut (r : Result) : (s.report r).expOut = s.expOut := rfl
@[simp] theorem State.report_link (r : Result) : (s.report r).link = s.link := rfl
@[simp] theorem State.report_trace (r : Result) : (s.report r).trace = s.trace ++ [.complete r] := rfl
@[simp] theorem State.report_refusal (r : Result) : (s.report r).refusal = s.refusal := rfl
@[simp] theorem State.report_inbox (r : Result) : (s.report r).inbox = s.inbox := rfl
@[simp] theorem State.report_script (r : Result) : (s.report r).script = s.script := rfl
@[simp] theorem State.report_draws (r : Result) : (s.report r).draws = s.draws := rfl

@[simp] theorem State.refuse_refusal (r : RefuseReason) : (s.refuse r).refusal = some (s.refusal.getD r) := by
  cases h : s.refusal <;> simp [State.refuse, h]

/-! ### `State.setFlag` -/

@[simp] theorem State.setFlag_cfgAddr (x : SetReg) (v : Byte) : (s.setFlag x v).cfgAddr = s.cfgAddr := by cases x <;> rfl
@[simp] theorem State.setFlag_cfgCols (x : SetReg) (v : Byte) : (s.setFlag x v).cfgCols = s.cfgCols := by cases x <;> rfl
@[simp] theorem State.setFlag_cfgRows (x : SetReg) (v : Byte) : (s.setFlag x v).cfgRows = s.cfgRows := by cases x <;> rfl
@[simp] theorem State.setFlag_cfgCharsize (x : SetReg) (v : Byte) : (s.setFlag x v).cfgCharsize = s.cfgCharsize := by cases x <;> rfl
@[simp] theorem State.setFlag_func (x : SetReg) (v : Byte) : (s.setFlag x v).func = s.func := by cases x <;> rfl
@[simp] theorem State.setFlag_phase (x : SetReg) (v : Byte) : (s.setFlag x v).phase = s.phase := by cases x <;> rfl
@[simp] theorem State.setFlag_busy (x : SetReg) (v : Byte) : (s.setFlag x v).busy = s.busy := by cases x <;> rfl
@[simp] theorem State.setFlag_curOp (x : SetReg) (v : Byte) : (s.setFlag x v).curOp = s.curOp := by cases x <;> rfl
@[simp] theorem State.setFlag_uprog (x : SetReg) (v : Byte) : (s.setFlag x v).uprog = s.uprog := by cases x <;> rfl
@[simp] theorem State.setFlag_upc (x : SetReg) (v : Byte) : (s.setFlag x v).upc = s.upc := by cases x <;> rfl
@[simp] theorem State.setFlag_result (x : SetReg) (v : Byte) : (s.setFlag x v).result = s.result := by cases x <;> rfl
@[simp] theorem State.setFlag_expOut (x : SetReg) (v : Byte) : (s.setFlag x v).expOut = s.expOut := by cases x <;> rfl
@[simp] theorem State.setFlag_link (x : SetReg) (v : Byte) : (s.setFlag x v).link = s.link := by cases x <;> rfl
@[simp] theorem State.setFlag_trace (x : SetReg) (v : Byte) : (s.setFlag x v).trace = s.trace := by cases x <;> rfl
@[simp] theorem State.setFlag_refusal (x : SetReg) (v : Byte) : (s.setFlag x v).refusal = s.refusal := by cases x <;> rfl
@[simp] theorem State.setFlag_inbox (x : SetReg) (v : Byte) : (s.setFlag x v).inbox = s.inbox := by cases x <;> rfl
@[simp] theorem State.setFlag_script (x : SetReg) (v : Byte) : (s.setFlag x v).script = s.script := by cases x <;> rfl
@[simp] theorem State.setFlag_draws (x : SetReg) (v : Byte) : (s.setFlag x v).draws = s.draws := by cases x <;> rfl
@[simp] theorem State.setFlag_ctrl_ctrl (v : Byte) : (s.setFlag .ctrl v).ctrl = some v := rfl
@[simp] theorem State.setFlag_ctrl_entry (v : Byte) : (s.setFlag .ctrl v).entry = s.entry := rfl
@[simp] theorem State.setFlag_ctrl_bl (v : Byte) : (s.setFlag .ctrl v).bl = s.bl := rfl
@[simp] theorem State.setFlag_entry_ctrl (v : Byte) : (s.setFlag .entry v).ctrl = s.ctrl := rfl
@[simp] theorem State.setFlag_entry_entry (v : Byte) : (s.setFlag .entry v).entry = some v := rfl
@[simp] theorem State.setFlag_entry_bl (v : Byte) : (s.setFlag .entry v).bl = s.bl := rfl
@[simp] theorem State.setFlag_bl_ctrl (v : Byte) : (s.setFlag .bl v).ctrl = s.ctrl := rfl
@[simp] theorem State.setFlag_bl_entry (v : Byte) : (s.setFlag .bl v).entry = s.entry := rfl
@[simp] theorem State.setFlag_bl_bl (v : Byte) : (s.setFlag .bl v).bl = some v := rfl

/-! ### `State.afterDraw` -/

@[simp] theorem State.afterDraw_cfgAddr : s.afterDraw.cfgAddr = s.cfgAddr := by unfold State.afterDraw; split <;> rfl
@[simp] theorem State.afterDraw_cfgCols : s.afterDraw.cfgCols = s.cfgCols := by unfold State.afterDraw; split <;> rfl
@[simp] theorem State.afterDraw_cfgRows : s.afterDraw.cfgRows = s.cfgRows := by unfold State.afterDraw; split <;> rfl
@[simp] theorem State.afterDraw_cfgCharsize : s.afterDraw.cfgCharsize = s.cfgCharsize := by unfold State.afterDraw; split <;> rfl
@[simp] theorem State.afterDraw_func : s.afterDraw.func = s.func := by unfold State.afterDraw; split <;> rfl
@[simp] theorem State.afterDraw_ctrl : s.afterDraw.ctrl = s.ctrl := by unfold State.afterDraw; split <;> rfl
@[simp] theorem State.afterDraw_entry : s.afterDraw.entry = s.entry := by unfold State.afterDraw; split <;> rfl
@[simp] theorem State.afterDraw_bl : s.afterDraw.bl = s.bl := by unfold State.afterDraw; split <;> rfl
@[simp] theorem State.afterDraw_phase : s.afterDraw.phase = s.phase := by unfold State.afterDraw; split <;> rfl
@[simp] theorem State.afterDraw_busy : s.afterDraw.busy = s.busy := by unfold State.afterDraw; split <;> rfl
@[simp] theorem State.afterDraw_curOp : s.afterDraw.curOp = s.curOp := by unfold State.afterDraw; split <;> rfl
@[simp] theorem State.afterDraw_uprog : s.afterDraw.uprog = s.uprog := by unfold State.afterDraw; split <;> rfl
@[simp] theorem State.afterDraw_upc : s.afterDraw.upc = s.upc := by unfold State.afterDraw; split <;> rfl
@[simp] theorem State.afterDraw_result : s.afterDraw.result = s.result := by unfold State.afterDraw; split <;> rfl
@[simp] theorem State.afterDraw_expOut : s.afterDraw.expOut = s.expOut := by unfold State.afterDraw; split <;> rfl
@[simp] theorem State.afterDraw_link : s.afterDraw.link = s.link := by unfold State.afterDraw; split <;> rfl
@[simp] theorem State.afterDraw_trace : s.afterDraw.trace = s.trace := by unfold State.afterDraw; split <;> rfl
@[simp] theorem State.afterDraw_refusal : s.afterDraw.refusal = s.refusal := by unfold State.afterDraw; split <;> rfl
@[simp] theorem State.afterDraw_inbox : s.afterDraw.inbox = s.inbox := by unfold State.afterDraw; split <;> rfl

/-! ### `State.afterDraws` -/

@[simp] theorem State.afterDraws_cfgAddr (n : Nat) : (s.afterDraws n).cfgAddr = s.cfgAddr := by
  induction n generalizing s with
  | zero => rfl
  | succ n ih => exact (ih s.afterDraw).trans (State.afterDraw_cfgAddr s)
@[simp] theorem State.afterDraws_cfgCols (n : Nat) : (s.afterDraws n).cfgCols = s.cfgCols := by
  induction n generalizing s with
  | zero => rfl
  | succ n ih => exact (ih s.afterDraw).trans (State.afterDraw_cfgCols s)
@[simp] theorem State.afterDraws_cfgRows (n : Nat) : (s.afterDraws n).cfgRows = s.cfgRows := by
  induction n generalizing s with
  | zero => rfl
  | succ n ih => exact (ih s.afterDraw).trans (State.afterDraw_cfgRows s)
@[simp] theorem State.afterDraws_cfgCharsize (n : Nat) : (s.afterDraws n).cfgCharsize = s.cfgCharsize := by
  induction n generalizing s with
  | zero => rfl
  | succ n ih => exact (ih s.afterDraw).trans (State.afterDraw_cfgCharsize s)
@[simp] theorem State.afterDraws_func (n : Nat) : (s.afterDraws n).func = s.func := by
  induction n generalizing s with
  | zero => rfl
  | succ n ih => exact (ih s.afterDraw).trans (State.afterDraw_func s)
@[simp] theorem State.afterDraws_ctrl (n : Nat) : (s.afterDraws n).ctrl = s.ctrl := by
  induction n generalizing s with
  | zero => rfl
  | succ n ih => exact (ih s.afterDraw).trans (State.afterDraw_ctrl s)
@[simp] theorem State.afterDraws_entry (n : Nat) : (s.afterDraws n).entry = s.entry := by
  induction n generalizing s with
  | zero => rfl
  | succ n ih => exact (ih s.afterDraw).trans (State.afterDraw_entry s)
@[simp] theorem State.afterDraws_bl (n : Nat) : (s.afterDraws n).bl = s.bl := by
  induction n generalizing s with
  | zero => rfl
  | succ n ih => exact (ih s.afterDraw).trans (State.afterDraw_bl s)
@[simp] theorem State.afterDraws_phase (n : Nat) : (s.afterDraws n).phase = s.phase := by
  induction n generalizing s with
  | zero => rfl
  | succ n ih => exact (ih s.afterDraw).trans (State.afterDraw_phase s)
@[simp] theorem State.afterDraws_busy (n : Nat) : (s.afterDraws n).busy = s.busy := by
  induction n generalizing s with
  | zero => rfl
  | succ n ih => exact (ih s.afterDraw).trans (State.afterDraw_busy s)
@[simp] theorem State.afterDraws_curOp (n : Nat) : (s.afterDraws n).curOp = s.curOp := by
  induction n generalizing s with
  | zero => rfl
  | succ n ih => exact (ih s.afterDraw).trans (State.afterDraw_curOp s)
@[simp] theorem State.afterDraws_uprog (n : Nat) : (s.afterDraws n).uprog = s.uprog := by
  induction n generalizing s with
  | zero => rfl
  | succ n ih => exact (ih s.afterDraw).trans (State.afterDraw_uprog s)
@[simp] theorem State.afterDraws_upc (n : Nat) : (s.afterDraws n).upc = s.upc := by
  induction n generalizing s with
  | zero => rfl
  | succ n ih => exact (ih s.afterDraw).trans (State.afterDraw_upc s)
@[simp] theorem State.afterDraws_result (n : Nat) : (s.afterDraws n).result = s.result := by
  induction n generalizing s with
  | zero => rfl
  | succ n ih => exact (ih s.afterDraw).trans (State.afterDraw_result s)
@[simp] theorem State.afterDraws_expOut (n : Nat) : (s.afterDraws n).expOut = s.expOut := by
  induction n generalizing s with
  | zero => rfl
  | succ n ih => exact (ih s.afterDraw).trans (State.afterDraw_expOut s)
@[simp] theorem State.afterDraws_link (n : Nat) : (s.afterDraws n).link = s.link := by
  induction n generalizing s with
  | zero => rfl
  | succ n ih => exact (ih s.afterDraw).trans (State.afterDraw_link s)
@[simp] theorem State.afterDraws_trace (n : Nat) : (s.afterDraws n).trace = s.trace := by
  induction n generalizing s with
  | zero => rfl
  | succ n ih => exact (ih s.afterDraw).trans (State.afterDraw_trace s)
@[simp] theorem State.afterDraws_refusal (n : Nat) : (s.afterDraws n).refusal = s.refusal := by
  induction n generalizing s with
  | zero => rfl
  | succ n ih => exact (ih s.afterDraw).trans (State.afterDraw_refusal s)
@[simp] theorem State.afterDraws_inbox (n : Nat) : (s.afterDraws n).inbox = s.inbox := by
  induction n generalizing s with
  | zero => rfl
  | succ n ih => exact (ih s.afterDraw).trans (State.afterDraw_inbox s)

/-! ### `State.hold` -/

@[simp] theorem State.hold_cfgAddr (q : Instr) : (s.hold q).cfgAddr = s.cfgAddr := by unfold State.hold; split <;> rfl
@[simp] theorem State.hold_cfgCols (q : Instr) : (s.hold q).cfgCols = s.cfgCols := by unfold State.hold; split <;> rfl
@[simp] theorem State.hold_cfgRows (q : Instr) : (s.hold q).cfgRows = s.cfgRows := by unfold State.hold; split <;> rfl
@[simp] theorem State.hold_cfgCharsize (q : Instr) : (s.hold q).cfgCharsize = s.cfgCharsize := by unfold State.hold; split <;> rfl
@[simp] theorem State.hold_func (q : Instr) : (s.hold q).func = s.func := by unfold State.hold; split <;> rfl
@[simp] theorem State.hold_ctrl (q : Instr) : (s.hold q).ctrl = s.ctrl := by unfold State.hold; split <;> rfl
@[simp] theorem State.hold_entry (q : Instr) : (s.hold q).entry = s.entry := by unfold State.hold; split <;> rfl
@[simp] theorem State.hold_bl (q : Instr) : (s.hold q).bl = s.bl := by unfold State.hold; split <;> rfl
@[simp] theorem State.hold_phase (q : Instr) : (s.hold q).phase = s.phase := by unfold State.hold; split <;> rfl
@[simp] theorem State.hold_busy (q : Instr) : (s.hold q).busy = s.busy := by unfold State.hold; split <;> rfl
@[simp] theorem State.hold_curOp (q : Instr) : (s.hold q).curOp = s.curOp := by unfold State.hold; split <;> rfl
@[simp] theorem State.hold_uprog (q : Instr) : (s.hold q).uprog = s.uprog := by unfold State.hold; split <;> rfl
@[simp] theorem State.hold_upc (q : Instr) : (s.hold q).upc = s.upc := by unfold State.hold; split <;> rfl
@[simp] theorem State.hold_result (q : Instr) : (s.hold q).result = s.result := by unfold State.hold; split <;> rfl
@[simp] theorem State.hold_expOut (q : Instr) : (s.hold q).expOut = s.expOut := by unfold State.hold; split <;> rfl
@[simp] theorem State.hold_link (q : Instr) : (s.hold q).link = s.link := by unfold State.hold; split <;> rfl
@[simp] theorem State.hold_trace (q : Instr) : (s.hold q).trace = s.trace := by unfold State.hold; split <;> rfl
@[simp] theorem State.hold_refusal (q : Instr) : (s.hold q).refusal = s.refusal := by unfold State.hold; split <;> rfl
@[simp] theorem State.hold_script (q : Instr) : (s.hold q).script = s.script := by unfold State.hold; split <;> rfl
@[simp] theorem State.hold_draws (q : Instr) : (s.hold q).draws = s.draws := by unfold State.hold; split <;> rfl

theorem State.hold_request {q : Instr} {r : List Byte} (h : encode q = some r) :
    s.hold q = { s with inbox := s.inbox ++ [r] } := by simp [State.hold, h]

end Sys2Proof.Machine
end

