-- ==== Sys2Proof/Laws/Ops.lean ====
section
/-! SUPPORT. What each shared operation, each micro-operation and each step can do, said once: the inversion lemmas that
proofs cite instead of unfolding the machine. -/

namespace Sys2Proof.Machine

theorem isBegin_iff (o : Option Instr) : isBegin o = true ↔ o = some .begin := by
  cases o with
  | none => simp [isBegin]
  | some q => cases q <;> simp [isBegin]

/-- The `if` on begin's own rule, in the statements' form. -/
theorem ite_isBegin {α : Type} (o : Option Instr) (x y : α) :
    (if isBegin o then x else y) = if o = some .begin then x else y := by
  simp only [isBegin_iff]

/-! ### The expander write and the bus acquisition -/

theorem busWrite_ack {s : State} (a : BusAddr) (v : Byte) (h : s.nextDraw.answer = .ack) :
    busWrite a v s = .advanced { s.afterDraw with
      trace := s.trace ++ [.write a v .ack]
      expOut := .known v
      upc := s.upc + 1 } := by
  simp [busWrite, h, State.advance, expAfter]

theorem busWrite_err {s : State} (a : BusAddr) (v : Byte) {k : ErrKind} (h : s.nextDraw.answer = .err k) :
    busWrite a v s = .aborted (State.abort { s.afterDraw with
      trace := s.trace ++ [.write a v (.err k)]
      expOut := if s.nextDraw.taken then .known v else s.expOut } { kind := k, upc := s.upc, byte := some v }) := by
  simp [busWrite, h, expAfter]

theorem busInit_ack {s : State} (h : s.nextDraw.answer = .ack) :
    busInit s = .advanced (s.afterDraw.emit (.busInit .ack)).advance := by
  simp [busInit, h]

theorem busInit_err {s : State} {k : ErrKind} (h : s.nextDraw.answer = .err k) :
    busInit s = .aborted ((s.afterDraw.emit (.busInit (.err k))).abort { kind := k, upc := s.upc, byte := none }) := by
  simp [busInit, h]

/-! ### The micro-operations -/

theorem microW_ok {s : State} {x : Expr} {v bl : Byte} {a : BusAddr} (hx : evalExpr s x = .ok v)
    (hb : s.bl = some bl) (ha : s.cfgAddr = some a) : microW x s = busWrite a (v ||| bl) s := by
  simp [microW, hx, hb, ha, need]

theorem microSet_ok {s : State} {r : SetReg} {e : Expr} {v : Byte} (he : evalExpr s e = .ok v) :
    microSet r e s = .advanced (s.setFlag r v).advance := by
  simp [microSet, he]

/-- The ways a `W` ends. -/
theorem microW_cases (x : Expr) (s : State) :
    (∃ f, microW x s = .fault f ∧
      (evalExpr s x = .error f ∨ (s.bl = none ∧ f = .unwrittenRead .bl) ∨
        (s.cfgAddr = none ∧ f = .unwrittenRead .cfgAddr))) ∨
    (∃ v bl a, evalExpr s x = .ok v ∧ s.bl = some bl ∧ s.cfgAddr = some a ∧
      microW x s = busWrite a (v ||| bl) s) := by
  cases hx : evalExpr s x with
  | error f => exact .inl ⟨f, by simp [microW, hx], .inl rfl⟩
  | ok v =>
    cases hb : s.bl with
    | none => exact .inl ⟨.unwrittenRead .bl, by simp [microW, hx, hb, need], .inr (.inl ⟨rfl, rfl⟩)⟩
    | some bl =>
      cases ha : s.cfgAddr with
      | none => exact .inl ⟨.unwrittenRead .cfgAddr, by simp [microW, hx, hb, ha, need], .inr (.inr ⟨rfl, rfl⟩)⟩
      | some a => exact .inr ⟨v, bl, a, rfl, rfl, rfl, microW_ok hx hb ha⟩

/-- The draw's answer is `Ack` or an error. -/
theorem answer_cases (s : State) : s.nextDraw.answer = .ack ∨ ∃ k, s.nextDraw.answer = .err k := by
  cases s.nextDraw.answer with
  | ack => exact .inl rfl
  | err k => exact .inr ⟨k, rfl⟩

/-- Everything a micro-operation that advances can have done. -/
theorem micro_advanced {m : Uop} {s t : State} (h : micro m s = .advanced t) :
    (∃ x v bl a, m = .w x ∧ evalExpr s x = .ok v ∧ s.bl = some bl ∧ s.cfgAddr = some a ∧
      s.nextDraw.answer = .ack ∧ t = { s.afterDraw with
        trace := s.trace ++ [.write a (v ||| bl) .ack]
        expOut := .known (v ||| bl)
        upc := s.upc + 1 }) ∨
    (∃ us, m = .t us ∧ t = (s.emit (.wait us)).advance) ∨
    (m = .b ∧ s.nextDraw.answer = .ack ∧ t = (s.afterDraw.emit (.busInit .ack)).advance) ∨
    (∃ r e v, m = .set r e ∧ evalExpr s e = .ok v ∧ t = (s.setFlag r v).advance) := by
  cases m with
  | w x =>
    rcases microW_cases x s with ⟨f, hf, -⟩ | ⟨v, bl, a, hx, hb, ha, hw⟩
    · simp [micro, hf] at h
    · rcases answer_cases s with hd | ⟨k, hd⟩
      · rw [micro, hw, busWrite_ack a _ hd] at h
        exact .inl ⟨x, v, bl, a, rfl, hx, hb, ha, hd, (MicroOutcome.advanced.inj h).symm⟩
      · simp [micro, hw, busWrite_err a _ hd] at h
  | t us => exact .inr (.inl ⟨us, rfl, (MicroOutcome.advanced.inj h).symm⟩)
  | b =>
    rcases answer_cases s with hd | ⟨k, hd⟩
    · rw [micro, microB, busInit_ack hd] at h
      exact .inr (.inr (.inl ⟨rfl, hd, (MicroOutcome.advanced.inj h).symm⟩))
    · simp [micro, microB, busInit_err hd] at h
  | set r e =>
    cases he : evalExpr s e with
    | error f => simp [micro, microSet, he] at h
    | ok v =>
      rw [micro, microSet_ok he] at h
      exact .inr (.inr (.inr ⟨r, e, v, rfl, he, (MicroOutcome.advanced.inj h).symm⟩))

/-- Everything a micro-operation that aborts can have done (R192). -/
theorem micro_aborted {m : Uop} {s t : State} (h : micro m s = .aborted t) :
    (∃ x v bl a k, m = .w x ∧ evalExpr s x = .ok v ∧ s.bl = some bl ∧ s.cfgAddr = some a ∧
      s.nextDraw.answer = .err k ∧ t = State.abort { s.afterDraw with
        trace := s.trace ++ [.write a (v ||| bl) (.err k)]
        expOut := if s.nextDraw.taken then .known (v ||| bl) else s.expOut }
          { kind := k, upc := s.upc, byte := some (v ||| bl) }) ∨
    (∃ k, m = .b ∧ s.nextDraw.answer = .err k ∧
      t = (s.afterDraw.emit (.busInit (.err k))).abort { kind := k, upc := s.upc, byte := none }) := by
  cases m with
  | w x =>
    rcases microW_cases x s with ⟨f, hf, -⟩ | ⟨v, bl, a, hx, hb, ha, hw⟩
    · simp [micro, hf] at h
    · rcases answer_cases s with hd | ⟨k, hd⟩
      · simp [micro, hw, busWrite_ack a _ hd] at h
      · rw [micro, hw, busWrite_err a _ hd] at h
        exact .inl ⟨x, v, bl, a, k, rfl, hx, hb, ha, hd, (MicroOutcome.aborted.inj h).symm⟩
  | t us => simp [micro, microT] at h
  | b =>
    rcases answer_cases s with hd | ⟨k, hd⟩
    · simp [micro, microB, busInit_ack hd] at h
    · rw [micro, microB, busInit_err hd] at h
      exact .inr ⟨k, rfl, hd, (MicroOutcome.aborted.inj h).symm⟩
  | set r e => cases he : evalExpr s e <;> simp [micro, microSet, he] at h

/-- A micro-operation's fault comes from its operand or from a register it reads. -/
theorem micro_fault {m : Uop} {s : State} {f : Fault} (h : micro m s = .fault f) :
    (∃ x, m = .w x ∧ (evalExpr s x = .error f ∨ (s.bl = none ∧ f = .unwrittenRead .bl) ∨
      (s.cfgAddr = none ∧ f = .unwrittenRead .cfgAddr))) ∨
    (∃ r e, m = .set r e ∧ evalExpr s e = .error f) := by
  cases m with
  | w x =>
    rcases microW_cases x s with ⟨g, hg, hc⟩ | ⟨v, bl, a, -, -, -, hw⟩
    · rw [micro, hg] at h
      obtain rfl := MicroOutcome.fault.inj h
      exact .inl ⟨x, rfl, hc⟩
    · rcases answer_cases s with hd | ⟨k, hd⟩
      · simp [micro, hw, busWrite_ack a _ hd] at h
      · simp [micro, hw, busWrite_err a _ hd] at h
  | t us => simp [micro, microT] at h
  | b =>
    rcases answer_cases s with hd | ⟨k, hd⟩
    · simp [micro, microB, busInit_ack hd] at h
    · simp [micro, microB, busInit_err hd] at h
  | set r e =>
    cases he : evalExpr s e with
    | error g =>
      simp only [micro, microSet, he, MicroOutcome.fault.injEq] at h
      exact .inr ⟨r, e, rfl, h ▸ he⟩
    | ok v => simp [micro, microSet, he] at h

/-- What a micro-operation that advances leaves unchanged, whichever it is. -/
theorem micro_advanced_frame {m : Uop} {s t : State} (h : micro m s = .advanced t) :
    t.busy = s.busy ∧ t.curOp = s.curOp ∧ t.uprog = s.uprog ∧ t.upc = s.upc + 1 ∧ t.phase = s.phase ∧
    t.link = s.link ∧ t.result = s.result ∧ t.refusal = s.refusal ∧ t.inbox = s.inbox ∧
    t.cfgAddr = s.cfgAddr ∧ t.cfgCols = s.cfgCols ∧ t.cfgRows = s.cfgRows ∧ t.cfgCharsize = s.cfgCharsize ∧
    t.func = s.func := by
  rcases micro_advanced h with ⟨x, v, bl, a, -, -, -, -, -, rfl⟩ | ⟨us, -, rfl⟩ | ⟨-, -, rfl⟩ | ⟨r, e, v, -, -, rfl⟩ <;>
    simp

/-- What an abort changes and leaves unchanged, whichever micro-operation it is of (R192, R217). -/
theorem micro_aborted_frame {m : Uop} {s t : State} (h : micro m s = .aborted t) :
    t.busy = false ∧ t.curOp = none ∧ t.uprog = s.uprog ∧ t.upc = s.upc ∧
    t.phase = (if s.curOp = some .begin then .configured else s.phase) ∧ t.link = .suspect ∧
    (∃ info, t.result = some (.transportError info)) ∧ t.refusal = s.refusal ∧ t.inbox = s.inbox ∧
    t.cfgAddr = s.cfgAddr ∧ t.cfgCols = s.cfgCols ∧ t.cfgRows = s.cfgRows ∧ t.cfgCharsize = s.cfgCharsize ∧
    t.func = s.func ∧ t.ctrl = s.ctrl ∧ t.entry = s.entry ∧ t.bl = s.bl := by
  rcases micro_aborted h with ⟨x, v, bl, a, k, -, -, -, -, -, rfl⟩ | ⟨k, -, -, rfl⟩ <;>
    simp [ite_isBegin]

/-! ### exec of a micro-operation -/

/-- A micro-operation of UPROG, run as an instruction. -/
theorem exec_toInstr (m : Uop) (s : State) : exec m.toInstr s = (micro m s).answer := by
  cases m <;> rfl

/-! ### Requests -/

/-- A request's answer while `BUSY = 0` (R182): refused, accepted, or init's one step. -/
theorem exec_request_idle {q : Instr} {s : State} (hq : q.reqCode.isSome) (hb : s.busy = false) :
    (∃ r, exec q s = .next (s.refuse r)) ∨
    (exec q s = .next (s.accept q) ∧ q.reqCode ≠ some 0 ∧ s.phase ≠ .unconfigured ∧
      (q = .begin ∨ s.phase = .ready)) ∨
    (∃ a c r z, q = .init a c r z ∧ s.phase = .unconfigured ∧
      ((∃ f, configProblem c r = some f ∧
          exec q s = .next ((s.emit (.accept q)).report (.configError f))) ∨
       (configProblem c r = none ∧
          exec q s = .next (((s.emit (.accept q)).configure a c r z).report .ok)))) := by
  cases q with
  | init a c r z =>
    cases hp : s.phase with
    | unconfigured =>
      refine .inr (.inr ⟨a, c, r, z, rfl, rfl, ?_⟩)
      cases hc : configProblem c r with
      | none => exact .inr ⟨rfl, by simp [exec, execInit, hb, hp, hc]⟩
      | some f => exact .inl ⟨f, rfl, by simp [exec, execInit, hb, hp, hc]⟩
    | configured => exact .inl ⟨.alreadyConfigured, by simp [exec, execInit, hb, hp]⟩
    | ready => exact .inl ⟨.alreadyConfigured, by simp [exec, execInit, hb, hp]⟩
  | begin =>
    cases hp : s.phase with
    | unconfigured => exact .inl ⟨.noConfig, by simp [exec, execBegin, takeBegin, hb, hp]⟩
    | configured => exact .inr (.inl ⟨by simp [exec, execBegin, takeBegin, hb, hp], by decide, by simp, .inl rfl⟩)
    | ready => exact .inr (.inl ⟨by simp [exec, execBegin, takeBegin, hb, hp], by decide, by simp, .inl rfl⟩)
  | _ =>
    first
      | (simp [Instr.reqCode] at hq; done)
      | (cases hp : s.phase with
         | unconfigured =>
           exact .inl ⟨.noConfig, by
             simp [exec, execClear, execHome, execSetDisplay, execSetCursor, execSetBlink, execScroll,
               execSetEntryDirection, execSetAutoscroll, execSetBacklight, execSetCursorPosition, execDefineGlyph,
               execWriteChar, execWriteText, takeRequest, hb, hp]⟩
         | configured =>
           exact .inl ⟨.notBegun, by
             simp [exec, execClear, execHome, execSetDisplay, execSetCursor, execSetBlink, execScroll,
               execSetEntryDirection, execSetAutoscroll, execSetBacklight, execSetCursorPosition, execDefineGlyph,
               execWriteChar, execWriteText, takeRequest, hb, hp]⟩
         | ready =>
           exact .inr (.inl ⟨by
             simp [exec, execClear, execHome, execSetDisplay, execSetCursor, execSetBlink, execScroll,
               execSetEntryDirection, execSetAutoscroll, execSetBacklight, execSetCursorPosition, execDefineGlyph,
               execWriteChar, execWriteText, takeRequest, hb, hp], by simp [Instr.reqCode], by simp, .inr rfl⟩))

/-! ### The step -/

theorem step_micro {s : State} {m : Uop} (hb : s.busy = true) (hm : s.uprog[s.upc]? = some m) :
    step s = (micro m s).answer := by
  simp [step, nextTurn, busyTurn, hb, hm, exec_toInstr]

theorem step_finish {s : State} (hb : s.busy = true) (hu : s.upc = s.uprog.length) :
    step s = .next s.finish := by
  simp [step, nextTurn, busyTurn, hb, hu]

theorem step_stuck {s : State} (hb : s.busy = true) (hu : s.uprog.length < s.upc) :
    step s = .fault .stuckSequencer := by
  have hn : s.uprog[s.upc]? = none := List.getElem?_eq_none (by omega)
  simp [step, nextTurn, busyTurn, hb, hn, show s.upc ≠ s.uprog.length by omega]

theorem step_idle {s : State} (hb : s.busy = false) (hi : s.inbox = []) : step s = .next s := by
  simp [step, nextTurn, idleTurn, hb, hi]

theorem step_record {s : State} {r : List Byte} {rest : List (List Byte)} {i : Instr} (hb : s.busy = false)
    (hi : s.inbox = r :: rest) (hd : decode r = .ok i) : step s = exec i { s with inbox := rest } := by
  simp [step, nextTurn, idleTurn, recordTurn, hb, hi, hd]

theorem step_unknown {s : State} {r : List Byte} {rest : List (List Byte)} (hb : s.busy = false)
    (hi : s.inbox = r :: rest) (hd : decode r = .error .unknownRequest) :
    step s = .next (State.refuse { s with inbox := rest } .unknownRequest) := by
  simp [step, nextTurn, idleTurn, recordTurn, hb, hi, hd]

/-- Where a step's next state comes from (R198): a micro-operation, the completion, idling, a request, or code 0xF. -/
theorem step_cases {s t : State} (h : step s = .next t) :
    (s.busy = true ∧ ∃ m, s.uprog[s.upc]? = some m ∧ (micro m s = .advanced t ∨ micro m s = .aborted t)) ∨
    (s.busy = true ∧ s.upc = s.uprog.length ∧ t = s.finish) ∨
    (s.busy = false ∧ s.inbox = [] ∧ t = s) ∨
    (s.busy = false ∧ ∃ r rest q, s.inbox = r :: rest ∧ decode r = .ok q ∧
      exec q { s with inbox := rest } = .next t) ∨
    (s.busy = false ∧ ∃ r rest, s.inbox = r :: rest ∧ decode r = .error .unknownRequest ∧
      t = State.refuse { s with inbox := rest } .unknownRequest) := by
  by_cases hb : s.busy = true
  · rcases Nat.lt_trichotomy s.upc s.uprog.length with hlt | heq | hgt
    · obtain ⟨m, hm⟩ : ∃ m, s.uprog[s.upc]? = some m := ⟨_, List.getElem?_eq_getElem hlt⟩
      rw [step_micro hb hm] at h
      refine .inl ⟨hb, m, hm, ?_⟩
      cases hr : micro m s <;> simp_all [MicroOutcome.answer]
    · rw [step_finish hb heq] at h
      exact .inr (.inl ⟨hb, heq, (Host.Outcome.next.inj h).symm⟩)
    · simp [step_stuck hb hgt] at h
  · have hb : s.busy = false := by simpa using hb
    cases hi : s.inbox with
    | nil =>
      rw [step_idle hb hi] at h
      exact .inr (.inr (.inl ⟨hb, rfl, (Host.Outcome.next.inj h).symm⟩))
    | cons r rest =>
      cases hd : decode r with
      | ok q =>
        rw [step_record hb hi hd] at h
        exact .inr (.inr (.inr (.inl ⟨hb, r, rest, q, rfl, hd, h⟩)))
      | error e =>
        cases e with
        | unknownRequest =>
          rw [step_unknown hb hi hd] at h
          exact .inr (.inr (.inr (.inr ⟨hb, r, rest, rfl, hd, (Host.Outcome.next.inj h).symm⟩)))
        | _ => simp [step, nextTurn, idleTurn, recordTurn, hb, hi, hd] at h

end Sys2Proof.Machine
end

