-- ==== Sys2Proof/Laws/PerInstr.lean ====
section
/-! SUPPORT. A statement about every instruction as syntax, one lemma per constructor. -/

namespace Sys2Proof.Laws.CodeByte

/-- The record of a request starts with its code, `REQ[3:0]`, in the low bits of a byte; an instruction with a code has
a record, and one without has none (R80, R86). -/
def Statement (i : Instr) : Prop :=
  match i.reqCode, encode i with
  | some code, some (c :: _) => c = code.zeroExtend 8
  | some _, some [] => False
  | some _, none => False
  | none, some _ => False
  | none, none => True

theorem init (addr : BusAddr) (cols rows : Byte) (charsize : CharSize) : Statement (.init addr cols rows charsize) := rfl
theorem begin : Statement .begin := rfl
theorem clear : Statement .clear := rfl
theorem home : Statement .home := rfl
theorem setDisplay (on : Bool) : Statement (.setDisplay on) := rfl
theorem setCursor (on : Bool) : Statement (.setCursor on) := rfl
theorem setBlink (on : Bool) : Statement (.setBlink on) := rfl
theorem scroll (dir : ScrollDir) : Statement (.scroll dir) := rfl
theorem setEntryDirection (leftToRight : Bool) : Statement (.setEntryDirection leftToRight) := rfl
theorem setAutoscroll (on : Bool) : Statement (.setAutoscroll on) := rfl
theorem setBacklight (on : Bool) : Statement (.setBacklight on) := rfl
theorem setCursorPosition (col row : Byte) : Statement (.setCursorPosition col row) := rfl
theorem defineGlyph (slot : BitVec 3) (pattern : Glyph) : Statement (.defineGlyph slot pattern) := rfl
theorem writeChar (byte : Byte) : Statement (.writeChar byte) := rfl
theorem writeText (bytes : List Byte) : Statement (.writeText bytes) := rfl
theorem w (x : Expr) : Statement (.w x) := trivial
theorem t (us : Nat) : Statement (.t us) := trivial
theorem b : Statement .b := trivial
theorem set (x : SetReg) (e : Expr) : Statement (.set x e) := trivial
theorem pulseNibble (n : Expr) : Statement (.pulseNibble n) := trivial
theorem sendByte (v : Expr) (m : Mode) : Statement (.sendByte v m) := trivial

end Sys2Proof.Laws.CodeByte
end

