-- ==== Sys2Proof/Laws/Run.lean ====
section
/-! SUPPORT. Runs of several steps: a run of micro-operations is a run of the machine, and what draws and operand values
depend on. -/

namespace Sys2Proof.Machine

/-! ### Operand values -/

/-- An operand's value depends on the flag registers and CFG_ROWS only. -/
theorem evalExpr_congr {s t : State} (hf : t.func = s.func) (hc : t.ctrl = s.ctrl) (he : t.entry = s.entry)
    (hb : t.bl = s.bl) (hr : t.cfgRows = s.cfgRows) (x : Expr) : evalExpr t x = evalExpr s x := by
  induction x with
  | lit v => rfl
  | reg r => cases r <;> simp [evalExpr, readFlag, hf, hc, he, hb]
  | ddramCmd col row => simp [evalExpr, hr]
  | or a b iha ihb => simp [evalExpr, iha, ihb]
  | and a b iha ihb => simp [evalExpr, iha, ihb]
  | shl4 a ih => simp [evalExpr, ih]

/-! ### Draws -/

/-- A state's draws depend on the schedule and the counter only. -/
theorem nextDraw_congr {s t : State} (hs : t.script = s.script) (hd : t.draws = s.draws) :
    t.nextDraw = s.nextDraw := by
  simp [State.nextDraw, hs, hd]

theorem afterDraw_script_congr {s t : State} (hs : t.script = s.script) (hd : t.draws = s.draws) :
    t.afterDraw.script = s.afterDraw.script ∧ t.afterDraw.draws = s.afterDraw.draws := by
  simp only [State.afterDraw, hs]
  split <;> simp [hd]

theorem nextAcks_congr {n : Nat} : ∀ {s t : State}, t.script = s.script → t.draws = s.draws →
    (t.nextAcks n ↔ s.nextAcks n) := by
  induction n with
  | zero => intros; rfl
  | succ n ih =>
    intro s t hs hd
    obtain ⟨hs', hd'⟩ := afterDraw_script_congr hs hd
    simp only [State.nextAcks, nextDraw_congr hs hd, ih hs' hd']

theorem afterDraws_script_congr {n : Nat} : ∀ {s t : State}, t.script = s.script → t.draws = s.draws →
    (t.afterDraws n).script = (s.afterDraws n).script ∧ (t.afterDraws n).draws = (s.afterDraws n).draws := by
  induction n with
  | zero => intro s t hs hd; exact ⟨hs, hd⟩
  | succ n ih =>
    intro s t hs hd
    obtain ⟨hs', hd'⟩ := afterDraw_script_congr hs hd
    exact ih hs' hd'

theorem nextAcks_add (n k : Nat) (s : State) : s.nextAcks (n + k) ↔ s.nextAcks n ∧ (s.afterDraws n).nextAcks k := by
  induction n generalizing s with
  | zero => simp [State.nextAcks, State.afterDraws]
  | succ n ih => rw [Nat.add_right_comm]; simp [State.nextAcks, State.afterDraws, ih, and_assoc]

theorem afterDraws_add (n k : Nat) (s : State) : s.afterDraws (n + k) = (s.afterDraws n).afterDraws k := by
  induction n generalizing s with
  | zero => simp [State.afterDraws]
  | succ n ih => rw [Nat.add_right_comm]; simp [State.afterDraws, ih]

/-- A schedule of acknowledgements is enough for the premise. -/
theorem nextAcks_of_script {n : Nat} {b : Bool} {rest : List BusDraw} : ∀ {s : State},
    s.script = List.replicate n { answer := .ack, taken := b } ++ rest → s.nextAcks n := by
  induction n with
  | zero => intros; trivial
  | succ n ih =>
    intro s h
    rw [List.replicate_succ, List.cons_append] at h
    refine ⟨by simp [State.nextDraw, h], ih ?_⟩
    simp [State.afterDraw, h]

/-! ### Runs -/

/-- A run of `n + k` steps is a run of `n` and then, if that answers a next state, of `k`. -/
theorem run_add_of_next {n k : Nat} {s t : State} (h : Sys2Proof.core.run n s = .next t) :
    Sys2Proof.core.run (n + k) s = Sys2Proof.core.run k t := by
  induction n generalizing s with
  | zero =>
    obtain rfl : s = t := Host.Outcome.next.inj h
    rw [Nat.zero_add]
  | succ n ih =>
    rw [Nat.add_right_comm]
    simp only [Host.Core.run] at h ⊢
    cases hs : Sys2Proof.core.step s with
    | next u => rw [hs] at h; exact ih h
    | fault f => rw [hs] at h; cases h
    | refused r => rw [hs] at h; cases h

theorem run_one (s : State) : Sys2Proof.core.run 1 s = step s := by
  simp only [Host.Core.run]
  have hc : Sys2Proof.core.step s = step s := rfl
  rw [← hc]
  cases Sys2Proof.core.step s <;> rfl

theorem run_succ_of_step {n : Nat} {s t : State} (h : step s = .next t) :
    Sys2Proof.core.run (n + 1) s = Sys2Proof.core.run n t := by
  have h1 : Sys2Proof.core.run 1 s = .next t := (run_one s).trans h
  rw [Nat.add_comm]
  exact run_add_of_next h1

/-! ### Micro-operations in a row -/

theorem microRun_append {xs ys : List Uop} {s t : State} (h : microRun xs s = .advanced t) :
    microRun (xs ++ ys) s = microRun ys t := by
  induction xs generalizing s with
  | nil =>
    obtain rfl := MicroOutcome.advanced.inj h
    rfl
  | cons m xs ih =>
    simp only [List.cons_append, microRun] at h ⊢
    cases hm : micro m s with
    | advanced u => rw [hm] at h; exact ih h
    | aborted u => simp [hm] at h
    | fault f => simp [hm] at h

/-- The element at UPC and what follows it. -/
theorem getElem?_of_drop {prog post : List Uop} {m : Uop} {n : Nat} (h : prog.drop n = m :: post) :
    prog[n]? = some m ∧ prog.drop (n + 1) = post := by
  constructor
  · have := congrArg (fun l => l[0]?) h
    simpa using this
  · rw [← List.drop_drop, h]; rfl

/-- While the request runs, micro-operations that advance in a row are so many steps of the machine. -/
theorem run_microRun_advanced {ms post : List Uop} {s t : State} (hb : s.busy = true)
    (hd : s.uprog.drop s.upc = ms ++ post) (h : microRun ms s = .advanced t) :
    Sys2Proof.core.run ms.length s = .next t ∧ t.busy = true ∧ t.curOp = s.curOp ∧ t.uprog = s.uprog ∧
      t.upc = s.upc + ms.length := by
  induction ms generalizing s with
  | nil =>
    obtain rfl := MicroOutcome.advanced.inj h
    exact ⟨rfl, hb, rfl, rfl, rfl⟩
  | cons m ms ih =>
    obtain ⟨hm, hpost⟩ := getElem?_of_drop hd
    cases hr : micro m s with
    | advanced u =>
      obtain ⟨fb, fo, fp, fu, -⟩ := micro_advanced_frame hr
      simp only [microRun, hr] at h
      have hstep : step s = .next u := by rw [step_micro hb hm, hr]; rfl
      obtain ⟨h1, h2, h3, h4, h5⟩ := ih (s := u) (fb ▸ hb) (by rw [fp, fu]; exact hpost) h
      refine ⟨(run_succ_of_step hstep).trans h1, h2, h3.trans fo, h4.trans fp, ?_⟩
      rw [h5, fu, List.length_cons]; omega
    | aborted u => simp [microRun, hr] at h
    | fault f => simp [microRun, hr] at h

/-- A micro-program that runs to its end completes in one step more (R191). -/
theorem run_program {ms : List Uop} {s t : State} (hb : s.busy = true) (hu : s.upc = 0) (hp : s.uprog = ms)
    (h : microRun ms s = .advanced t) : Sys2Proof.core.run (ms.length + 1) s = .next t.finish := by
  obtain ⟨h1, h2, -, h4, h5⟩ := run_microRun_advanced (post := []) hb (by simp [hu, hp]) h
  rw [run_add_of_next h1, run_one]
  exact step_finish h2 (by rw [h4, h5, hu, hp]; simp)

end Sys2Proof.Machine
end

