-- ==== Sys2Proof/Laws/Timing.lean ====
section
/-! SUPPORT. What the timing functions answer. -/

namespace Sys2Proof.Machine

/-- A minimum rounded up is never shorter, is a whole number of ticks, and is less than a tick longer (R223, R250). -/
theorem roundUp_spec {tick : Nat} (us : Nat) (h : 0 < tick) :
    us ≤ roundUp tick us ∧ tick ∣ roundUp tick us ∧ roundUp tick us < us + tick := by
  unfold roundUp
  have h1 := Nat.div_add_mod (us + tick - 1) tick
  have h2 := Nat.mod_lt (us + tick - 1) h
  rw [Nat.mul_comm] at h1
  exact ⟨by omega, Nat.dvd_mul_left _ _, by omega⟩

theorem minWait_append (xs ys : List Event) : minWait (xs ++ ys) = minWait xs + minWait ys := by
  induction xs with
  | nil => simp [minWait]
  | cons e xs ih => simp [minWait, ih, Nat.add_assoc]

theorem progMinWait_append (xs ys : List Uop) : progMinWait (xs ++ ys) = progMinWait xs + progMinWait ys := by
  induction xs with
  | nil => simp [progMinWait]
  | cons m xs ih => simp [progMinWait, ih, Nat.add_assoc]

end Sys2Proof.Machine
end

