-- ==== Sys2Proof/Laws/Transfer.lean ====
section
/-! SUPPORT. What acknowledged transfers do to the state, in a form that composes; and what bits an operand's value can
have set. -/

namespace Sys2Proof.Machine

/-! ### Acknowledged transfers -/

/-- `s` after `n` draws, the events `evs`, the expander at `out` and `k` micro-operations passed. -/
def State.did (s : State) (n : Nat) (evs : List Event) (out : ExpOut) (k : Nat) : State :=
  { s with
    script := (s.afterDraws n).script
    draws := (s.afterDraws n).draws
    trace := s.trace ++ evs
    expOut := out
    upc := s.upc + k }

/-- Draws change the schedule and the counter only. -/
theorem afterDraws_eq (n : Nat) (s : State) :
    s.afterDraws n = { s with script := (s.afterDraws n).script, draws := (s.afterDraws n).draws } := by
  induction n generalizing s with
  | zero => rfl
  | succ n ih =>
    rw [State.afterDraws, ih]
    simp

theorem did_eq (s : State) (n : Nat) (evs : List Event) (out : ExpOut) (k : Nat) :
    s.did n evs out k = { s.afterDraws n with trace := s.trace ++ evs, expOut := out, upc := s.upc + k } := by
  rw [afterDraws_eq n s]
  rfl

/-- Transfers one after another are one. -/
theorem did_did (s : State) (n n' : Nat) (evs evs' : List Event) (out out' : ExpOut) (k k' : Nat) :
    (s.did n evs out k).did n' evs' out' k' = s.did (n + n') (evs ++ evs') out' (k + k') := by
  have h := afterDraws_script_congr (n := n') (s := s.afterDraws n) (t := s.did n evs out k) rfl rfl
  simp [State.did, afterDraws_add, List.append_assoc, Nat.add_assoc]
  exact h

theorem did_nextAcks (s : State) (n : Nat) (evs : List Event) (out : ExpOut) (k j : Nat) :
    (s.did n evs out k).nextAcks j ↔ (s.afterDraws n).nextAcks j :=
  nextAcks_congr rfl rfl

theorem did_evalExpr (s : State) (n : Nat) (evs : List Event) (out : ExpOut) (k : Nat) (x : Expr) :
    evalExpr (s.did n evs out k) x = evalExpr s x :=
  evalExpr_congr (s := s) (t := s.did n evs out k) rfl rfl rfl rfl rfl x

theorem micro_w_did {s : State} {x : Expr} {v bl : Byte} {a : BusAddr} (hx : evalExpr s x = .ok v)
    (hb : s.bl = some bl) (ha : s.cfgAddr = some a) (hd : s.nextAcks 1) :
    micro (.w x) s = .advanced (s.did 1 [.write a (v ||| bl) .ack] (.known (v ||| bl)) 1) := by
  rw [did_eq]
  show microW x s = _
  rw [microW_ok hx hb ha, busWrite_ack a _ hd.1]
  rfl

theorem micro_t_did (s : State) (us : Nat) : micro (.t us) s = .advanced (s.did 0 [.wait us] s.expOut 1) := rfl

/-- An acknowledged nibble transfer (R187). -/
theorem microRun_nibble {s : State} {n : Expr} {n8 bl : Byte} {a : BusAddr} (hx : evalExpr s n = .ok n8)
    (hb : s.bl = some bl) (ha : s.cfgAddr = some a) (hd : s.nextAcks 3) :
    microRun (nibbleProg n) s =
      .advanced (s.did 3 (nibbleEvents a n8 bl) (.known (n8 &&& 0xFB ||| bl)) 5) := by
  obtain ⟨h1, h2⟩ := (nextAcks_add 1 2 s).1 hd
  obtain ⟨h2, h3⟩ := (nextAcks_add 1 1 _).1 h2
  rw [← afterDraws_add] at h3
  simp only [nibbleProg, microRun]
  rw [micro_w_did hx hb ha h1]
  dsimp only
  rw [micro_w_did (s := s.did _ _ _ _) (v := n8 ||| 0x04) (bl := bl) (a := a)
    (by simp [evalExpr, did_evalExpr, hx]; rfl) hb ha ((did_nextAcks ..).2 h2)]
  dsimp only
  rw [micro_t_did, did_did, did_did]
  dsimp only
  rw [micro_w_did (s := s.did _ _ _ _) (v := n8 &&& 0xFB) (bl := bl) (a := a)
    (by simp [evalExpr, did_evalExpr, hx]; rfl) hb ha ((did_nextAcks ..).2 h3)]
  dsimp only
  rw [micro_t_did, did_did, did_did]
  rfl

/-- Clearing EN changes nothing in a nibble with its mode, whose bit 2 is 0 (R187). -/
theorem lowNibble_en (v m bl : Byte) (h : m = 0 ∨ m = 1) :
    (v <<< 4 &&& 0xF0 ||| m) &&& 0xFB ||| bl = restByte v m bl := by
  have key : ∀ v m : Byte, m = 0 ∨ m = 1 →
      (v <<< 4 &&& (0xF0 : Byte) ||| m) &&& (0xFB : Byte) = (v <<< 4 &&& 0xF0 ||| m) := by
    intro v m h
    rcases h with rfl | rfl <;> revert v <;> decide
  rw [key v m h]
  rfl

/-- An acknowledged byte transfer (R188). -/
theorem microRun_byte {s : State} {v : Expr} {v8 bl : Byte} {a : BusAddr} (m : Mode) (hx : evalExpr s v = .ok v8)
    (hb : s.bl = some bl) (ha : s.cfgAddr = some a) (hd : s.nextAcks 6) :
    microRun (byteProg v m) s =
      .advanced (s.did 6 (byteEvents a v8 (modeBits m) bl) (.known (restByte v8 (modeBits m) bl)) 10) := by
  obtain ⟨h1, h2⟩ := (nextAcks_add 3 3 s).1 hd
  rw [byteProg, microRun_append (microRun_nibble (n8 := v8 &&& 0xF0 ||| modeBits m)
    (by simp [highNibble, evalExpr, hx]) hb ha h1)]
  rw [microRun_nibble (s := s.did _ _ _ _) (n8 := v8 <<< 4 &&& 0xF0 ||| modeBits m) (bl := bl) (a := a)
    (by simp [lowNibble, evalExpr, did_evalExpr, hx]) hb ha ((did_nextAcks ..).2 h2), did_did, lowNibble_en]
  · rfl
  · cases m
    · exact .inl rfl
    · exact .inr rfl

/-- In phase Ready and idle, every request but init is accepted (R182). -/
theorem exec_readyIdle {q : Instr} {s : State} {a : BusAddr} {bl : Byte} (hr : s.ReadyIdle a bl)
    (hq : q.reqCode.isSome) (h0 : q.reqCode ≠ some 0) : exec q s = .next (s.accept q) := by
  rcases exec_request_idle hq hr.busy with ⟨r, h⟩ | ⟨h, -⟩ | ⟨_, _, _, _, rfl, -⟩
  · have hb := hr.busy
    have hp := hr.phase
    cases q <;>
      first
        | (simp [Instr.reqCode] at hq; done)
        | (simp [Instr.reqCode] at h0; done)
        | simp [exec, execBegin, takeBegin, takeRequest, execClear, execHome, execSetDisplay, execSetCursor,
            execSetBlink, execScroll, execSetEntryDirection, execSetAutoscroll, execSetBacklight,
            execSetCursorPosition, execDefineGlyph, execWriteChar, execWriteText, hb, hp]
  · exact h
  · exact absurd rfl h0

/-- Where a step that takes a request goes. -/
theorem exec_request_next {q : Instr} {s t : State} (hq : q.reqCode.isSome) (hb : s.busy = false)
    (h : exec q s = .next t) :
    (∃ r, t = s.refuse r) ∨
    (t = s.accept q ∧ q.reqCode ≠ some 0 ∧ s.phase ≠ .unconfigured ∧ (q = .begin ∨ s.phase = .ready)) ∨
    (∃ a c r z, q = .init a c r z ∧ s.phase = .unconfigured ∧
      ((∃ f, configProblem c r = some f ∧ t = (s.emit (.accept q)).report (.configError f)) ∨
       (configProblem c r = none ∧ t = ((s.emit (.accept q)).configure a c r z).report .ok))) := by
  rcases exec_request_idle hq hb with ⟨r, h'⟩ | ⟨h', h1, h2, h3⟩ | ⟨a, c, r, z, h1, h2, ⟨f, h3, h'⟩ | ⟨h3, h'⟩⟩ <;>
    rw [h'] at h <;> obtain rfl := Host.Outcome.next.inj h
  · exact .inl ⟨r, rfl⟩
  · exact .inr (.inl ⟨rfl, h1, h2, h3⟩)
  · exact .inr (.inr ⟨a, c, r, z, h1, h2, .inl ⟨f, h3, rfl⟩⟩)
  · exact .inr (.inr ⟨a, c, r, z, h1, h2, .inr ⟨h3, rfl⟩⟩)

/-! ### The bits of an operand's value -/

/-- Every bit set in `v` is set in `m`. -/
theorem within_iff {v m : Byte} : v &&& ~~~ m = 0 ↔ ∀ i, v.getLsbD i = true → m.getLsbD i = true := by
  constructor
  · intro h i hv
    have hi := congrArg (fun x : Byte => x.getLsbD i) h
    by_cases hlt : i < 8
    · simpa [hv, hlt] using hi
    · rw [BitVec.getLsbD_of_ge v i (by omega)] at hv
      cases hv
  · intro h
    apply BitVec.eq_of_getLsbD_eq
    intro i hi
    have := h i
    cases hv : v.getLsbD i <;> simp_all

/-- An operand's value has only the bits `mayBits` allows, where the flag registers hold only their own bits
(R26–R29). -/
theorem evalExpr_mayBits {s : State} (hf : legalFlag .func s.func) (hc : legalFlag .ctrl s.ctrl)
    (he : legalFlag .entry s.entry) (hb : legalFlag .bl s.bl) {x : Expr} :
    ∀ {v}, evalExpr s x = .ok v → v &&& ~~~ x.mayBits = 0 := by
  induction x with
  | lit w =>
    intro v h
    cases h
    exact within_iff.2 fun _ h => h
  | reg r =>
    intro v h
    have key : ∀ (n : RegName) (o : Option Byte), need n o = .ok v → o = some v := by
      intro n o ho
      cases o with
      | none => cases ho
      | some w => cases ho; rfl
    cases r
    · exact hf v (key _ _ h)
    · exact hc v (key _ _ h)
    · exact he v (key _ _ h)
    · exact hb v (key _ _ h)
  | ddramCmd c r =>
    intro v _
    exact within_iff.2 fun i hi => by
      have hlt : i < 8 := by
        by_contra hge
        rw [BitVec.getLsbD_of_ge v i (by omega)] at hi
        cases hi
      have hall : ∀ j < 8, (0xFF : Byte).getLsbD j = true := by decide
      exact hall i hlt
  | or a b iha ihb =>
    intro v h
    simp only [evalExpr] at h
    split at h <;> simp at h
    next x y hx hy =>
      subst h
      have ha := within_iff.1 (iha hx)
      have hb := within_iff.1 (ihb hy)
      refine within_iff.2 fun i hi => ?_
      simp only [Expr.mayBits, BitVec.getLsbD_or, Bool.or_eq_true] at hi ⊢
      exact hi.imp (ha i) (hb i)
  | and a b iha ihb =>
    intro v h
    simp only [evalExpr] at h
    split at h <;> simp at h
    next x y hx hy =>
      subst h
      have ha := within_iff.1 (iha hx)
      have hb := within_iff.1 (ihb hy)
      refine within_iff.2 fun i hi => ?_
      simp only [Expr.mayBits, BitVec.getLsbD_and, Bool.and_eq_true] at hi ⊢
      exact ⟨ha i hi.1, hb i hi.2⟩
  | shl4 a ih =>
    intro v h
    simp only [evalExpr] at h
    split at h <;> simp at h
    next x hx =>
      subst h
      have ha := within_iff.1 (ih hx)
      refine within_iff.2 fun i hi => ?_
      simp only [Expr.mayBits, BitVec.getLsbD_shiftLeft, Bool.and_eq_true] at hi ⊢
      exact ⟨hi.1, ha _ hi.2⟩

end Sys2Proof.Machine
end

