-- ==== Sys2Proof/Tests/Slice0.lean ====
section
/-! SUPPORT. Tests, their expected results written out from spec/ (the rule or vector is named at each), and a witness
for the hypotheses of each statement of Certificates/Slice0/Obligations.lean. -/

namespace Sys2Proof.Tests

open Sys2Proof.Machine

/-! ### WellFormed refuses what it should -/

/-- R183: bit 1 of the operand of `W` is 0. -/
theorem test_wellFormed_w_rw : (Instr.w (.lit 0x02)).wellFormed = false := by decide
/-- R183: bit 3 of the operand of `W` is 0. -/
theorem test_wellFormed_w_bl : (Instr.w (.or (.lit 0x30) (.reg .bl))).wellFormed = false := by decide
theorem test_wellFormed_w_ok : (Instr.w (.lit 0xF5)).wellFormed = true := by decide
/-- R184, R252: the operand of `T` is one of the list. -/
theorem test_wellFormed_t : (Instr.t 49).wellFormed = false := by decide
theorem test_wellFormed_t_ok : (Instr.t 4500).wellFormed = true := by decide
/-- R27: CTRL has bits 2:0. -/
theorem test_wellFormed_set_ctrl : (Instr.set .ctrl (.lit 0x08)).wellFormed = false := by decide
/-- R28: ENTRY has bits 1:0. -/
theorem test_wellFormed_set_entry : (Instr.set .entry (.or (.reg .entry) (.lit 0x04))).wellFormed = false := by decide
/-- R29: BL has bit 3. -/
theorem test_wellFormed_set_bl : (Instr.set .bl (.lit 0x01)).wellFormed = false := by decide
theorem test_wellFormed_set_ok : (Instr.set .ctrl (flagUpdate .ctrl Config.blinkOn true)).wellFormed = true := by
  decide
/-- R187: `n[3:1] = 0`. -/
theorem test_wellFormed_pulseNibble : (Instr.pulseNibble (.lit 0x34)).wellFormed = false := by decide
theorem test_wellFormed_pulseNibble_ok : (Instr.pulseNibble (.lit 0x31)).wellFormed = true := by decide

/-! ### Decoding: the codes of R80, the fields in its order, in the byte form of log entry 5 -/

/-- `REQ = 0000`, addr 010 0111, cols 0001 0000, rows 0000 0010, charsize 1. -/
theorem test_decode_init :
    decode [0b00000000, 0b00100111, 0b00010000, 0b00000010, 0b1] = .ok (.init 0x27 16 2 .dots5x10) := rfl
theorem test_decode_begin : decode [0b0001] = .ok .begin := rfl
theorem test_decode_clear : decode [0b0010] = .ok .clear := rfl
theorem test_decode_home : decode [0b0011] = .ok .home := rfl
theorem test_decode_setDisplay : decode [0b0100, 0b1] = .ok (.setDisplay true) := rfl
theorem test_decode_setCursor : decode [0b0101, 0b0] = .ok (.setCursor false) := rfl
theorem test_decode_setBlink : decode [0b0110, 0b1] = .ok (.setBlink true) := rfl
/-- D32: 0 = Left, 1 = Right. -/
theorem test_decode_scroll : decode [0b0111, 0b1] = .ok (.scroll .right) ∧ decode [0b0111, 0b0] = .ok (.scroll .left) :=
  ⟨rfl, rfl⟩
theorem test_decode_setEntryDirection : decode [0b1000, 0b1] = .ok (.setEntryDirection true) := rfl
theorem test_decode_setAutoscroll : decode [0b1001, 0b0] = .ok (.setAutoscroll false) := rfl
theorem test_decode_setBacklight : decode [0b1010, 0b1] = .ok (.setBacklight true) := rfl
/-- col first, then row (R80). -/
theorem test_decode_setCursorPosition : decode [0b1011, 19, 3] = .ok (.setCursorPosition 19 3) := rfl
theorem test_decode_defineGlyph :
    decode [0b1100, 0b111, 0x0E, 0x11, 0x11, 0x1F, 0x11, 0x11, 0x11, 0x00] =
      .ok (.defineGlyph 7 ⟨0x0E, 0x11, 0x11, 0x1F, 0x11, 0x11, 0x11, 0x00⟩) := rfl
theorem test_decode_writeChar : decode [0b1101, 0x41] = .ok (.writeChar 0x41) := rfl
theorem test_decode_writeText : decode [0b1110, 0x48, 0x69] = .ok (.writeText [0x48, 0x69]) := rfl
theorem test_decode_writeText_empty : decode [0b1110] = .ok (.writeText []) := rfl
/-- R82. -/
theorem test_decode_unassigned : decode [0b1111, 0x00] = .error .unknownRequest := rfl
/-- R86: the micro-operations and primitives are no requests. -/
theorem test_encode_none : encode (.w (.lit 0)) = none ∧ encode (.t 1) = none ∧ encode .b = none ∧
    encode (.set .bl (.lit 0)) = none ∧ encode (.pulseNibble (.lit 0)) = none ∧
    encode (.sendByte (.lit 0) .data) = none := ⟨rfl, rfl, rfl, rfl, rfl, rfl⟩
/-- R80: "Operand values outside a field's width cannot be represented". -/
theorem test_reject_reserved : decode [0x0C, 8, 0, 0, 0, 0, 0, 0, 0, 0] = .error .reservedBits ∧
    decode [0x04, 2] = .error .reservedBits ∧ decode [0x00, 0x80, 16, 2, 0] = .error .reservedBits ∧
    decode [0x11] = .error .reservedBits := ⟨rfl, rfl, rfl, rfl⟩
theorem test_reject_length : decode [] = .error .emptyRecord ∧ decode [0x0B, 1] = .error .truncated ∧
    decode [0x02, 0] = .error .trailingBytes ∧ decode [0x0D] = .error .truncated := ⟨rfl, rfl, rfl, rfl⟩

/-- R71, V5: 0xAD carries the nibble 0xA with BL, EN and RS set and RW clear. -/
theorem test_exp8 : decodeExp8 0b10101101 = { data := 0b1010, bl := true, en := true, rw := false, rs := true } := by
  decide
/-- R73: one byte of each class. -/
theorem test_cmd8 :
    decodeCmd8 0b00000001 = some .clearDisplay ∧ decodeCmd8 0b00000011 = some .returnHome ∧
    decodeCmd8 0b00000110 = some (.entryModeSet true false) ∧
    decodeCmd8 0b00001101 = some (.displayControl true false true) ∧
    decodeCmd8 0b00011100 = some (.cursorShift true true) ∧
    decodeCmd8 0b00101000 = some (.functionSet false true false) ∧
    decodeCmd8 0b01111000 = some (.setCgramAddr 0b111000) ∧
    decodeCmd8 0b11010100 = some (.setDdramAddr 0b1010100) := by decide

/-! ### The textual syntax: lines of P1, P3 and V16 -/

theorem test_parse_init : Text.parse "init addr=0x27, cols=16, rows=2, charsize=5x8".toList =
    some (.init 0x27 16 2 .dots5x8) := by decide
theorem test_parse_setCursorPosition : Text.parse "setCursorPosition 5, 3".toList = some (.setCursorPosition 5 3) := by
  decide
theorem test_parse_writeText : Text.parse "writeText \"\\x00A\"".toList = some (.writeText [0x00, 0x41]) := by decide
theorem test_parse_defineGlyph :
    Text.parse "defineGlyph 0, [0x0E,0x11,0x11,0x1F,0x11,0x11,0x11,0x00]".toList =
      some (.defineGlyph 0 ⟨0x0E, 0x11, 0x11, 0x1F, 0x11, 0x11, 0x11, 0x00⟩) := by decide
theorem test_parse_scroll : Text.parse "scroll right".toList = some (.scroll .right) := by decide

/-! ### States -/

/-- An acknowledged operation. -/
def okDraw : BusDraw := { answer := .ack, taken := true }

/-- The state "Unless a vector says otherwise" of 95_test_vectors.md on a display with `rows` rows. -/
def ready (rows : Byte) (script : List BusDraw) : State :=
  { State.reset with
    cfgAddr := some 0x27
    cfgCols := some 16
    cfgRows := some rows
    cfgCharsize := some .dots5x8
    func := some (funcFlags rows .dots5x8)
    ctrl := some 0x04
    entry := some 0x02
    bl := some 0x08
    phase := .ready
    link := .synced
    script := script }

/-- The same after init and before begin. -/
def configured (script : List BusDraw) : State :=
  { ready 2 script with ctrl := none, entry := none, phase := .configured, link := .unknown }

/-- The bytes and waits a micro-program leaves in a trace: a byte below 256, a wait `t` as `1000000000 + t`. -/
def marks : List Event → List Nat
  | [] => []
  | .write _ v .ack :: rest => v.toNat :: marks rest
  | .write _ v (.err _) :: rest => (v.toNat + 1000) :: marks rest
  | .wait us :: rest => (1000000000 + us) :: marks rest
  | .accept _ :: rest => marks rest
  | .busInit _ :: rest => marks rest
  | .complete _ :: rest => marks rest

/-- The bytes written, waits left out. -/
def writes (tr : List Event) : List Nat := (marks tr).filter fun k => decide (k < 2000)

/-- The bytes the micro-program of `q` writes from `s`. -/
def sent (q : Instr) (s : State) : List Nat :=
  match microRun (expand q) s with
  | .advanced t => writes t.trace
  | .aborted t => writes t.trace
  | .fault _ => []

/-- 54 acknowledged operations. -/
def acks : List BusDraw := List.replicate 54 okDraw

/-! ### Requests: the byte lists of V4, V9–V16 -/

theorem test_clear : sent .clear (ready 2 acks) = [0x08, 0x0C, 0x08, 0x18, 0x1C, 0x18] := by decide
theorem test_home : sent .home (ready 2 acks) = [0x08, 0x0C, 0x08, 0x28, 0x2C, 0x28] := by decide
theorem test_setDisplay : sent (.setDisplay false) (ready 2 acks) = [0x08, 0x0C, 0x08, 0x88, 0x8C, 0x88] := by decide
theorem test_setCursor : sent (.setCursor true) (ready 2 acks) = [0x08, 0x0C, 0x08, 0xE8, 0xEC, 0xE8] := by decide
theorem test_setBlink : sent (.setBlink true) (ready 2 acks) = [0x08, 0x0C, 0x08, 0xD8, 0xDC, 0xD8] := by decide
/-- The direction bit stays set on the wire (C1). -/
theorem test_setEntryDirection :
    sent (.setEntryDirection false) (ready 2 acks) = [0x08, 0x0C, 0x08, 0x68, 0x6C, 0x68] := by decide
theorem test_setAutoscroll : sent (.setAutoscroll true) (ready 2 acks) = [0x08, 0x0C, 0x08, 0x78, 0x7C, 0x78] := by
  decide
theorem test_scroll_left : sent (.scroll .left) (ready 2 acks) = [0x18, 0x1C, 0x18, 0x88, 0x8C, 0x88] := by decide
theorem test_scroll_right : sent (.scroll .right) (ready 2 acks) = [0x18, 0x1C, 0x18, 0xC8, 0xCC, 0xC8] := by decide
theorem test_setBacklight : sent (.setBacklight false) (ready 2 acks) = [0x00] := by decide
/-- V15: 255 + 0x54 = 0x153, reduced to 0x53. -/
theorem test_setCursorPosition :
    sent (.setCursorPosition 255 3) (ready 4 acks) = [0xD8, 0xDC, 0xD8, 0x38, 0x3C, 0x38] := by decide
/-- V10: row = rows is not clamped, row = rows + 1 is. -/
theorem test_rowClamp : sent (.setCursorPosition 0 2) (ready 2 acks) = [0x98, 0x9C, 0x98, 0x48, 0x4C, 0x48] ∧
    sent (.setCursorPosition 0 3) (ready 2 acks) = [0xC8, 0xCC, 0xC8, 0x08, 0x0C, 0x08] := by decide
/-- V15: rows 5, row 255 clamps to 4, past the table. -/
theorem test_rowFault : micro (.w (.ddramCmd 0 255)) (ready 5 acks) = .fault .rowOffsetOutOfTable := by decide
set_option maxRecDepth 2000 in
/-- V4, slot 7, the glyph "A". -/
theorem test_defineGlyph :
    sent (.defineGlyph 7 ⟨0x0E, 0x11, 0x11, 0x1F, 0x11, 0x11, 0x11, 0x00⟩) (ready 2 acks) =
      [0x78, 0x7C, 0x78, 0x88, 0x8C, 0x88, 0x09, 0x0D, 0x09, 0xE9, 0xED, 0xE9, 0x19, 0x1D, 0x19, 0x19, 0x1D, 0x19,
       0x19, 0x1D, 0x19, 0x19, 0x1D, 0x19, 0x19, 0x1D, 0x19, 0xF9, 0xFD, 0xF9, 0x19, 0x1D, 0x19, 0x19, 0x1D, 0x19,
       0x19, 0x1D, 0x19, 0x19, 0x1D, 0x19, 0x19, 0x1D, 0x19, 0x19, 0x1D, 0x19, 0x09, 0x0D, 0x09, 0x09, 0x0D, 0x09] := by
  decide
theorem test_writeChar : sent (.writeChar 0x48) (ready 2 acks) = [0x49, 0x4D, 0x49, 0x89, 0x8D, 0x89] := by decide
theorem test_writeText : sent (.writeText [0x48, 0x69]) (ready 2 acks) =
    [0x49, 0x4D, 0x49, 0x89, 0x8D, 0x89, 0x69, 0x6D, 0x69, 0x99, 0x9D, 0x99] := by decide
/-- V16: a failure at index 16 of `writeText "Hi"`. -/
theorem test_writeText_abort :
    (match microRun (expand (.writeText [0x48, 0x69]))
        (ready 2 (List.replicate 10 okDraw ++ [{ answer := .err .nack, taken := false }])) with
      | .aborted t => t.result
      | .advanced t => t.result
      | .fault _ => none) = some (.transportError { kind := .nack, upc := 16, byte := some 0x9D }) := by decide
/-- V12: 16x1 with 5x10 dots. -/
theorem test_init : (match exec (.init 0x27 16 1 .dots5x10) State.reset with
    | .next t => decide (t.func = some 0x04 ∧ t.bl = some 0x08 ∧ t.phase = .configured ∧ t.result = some .ok ∧
        t.ctrl = none)
    | .fault _ => false
    | .refused _ => false) = true := by decide
/-- V12: 0 columns and 0 rows name cols. -/
theorem test_init_zero : (match exec (.init 0x27 0 0 .dots5x8) State.reset with
    | .next t => decide (t.func = none ∧ t.phase = .unconfigured ∧ t.result = some (.configError .cols))
    | .fault _ => false
    | .refused _ => false) = true := by decide
/-- V1: the writes of begin on 16x2. -/
theorem test_begin : sent .begin (configured acks) =
    [0x08, 0x38, 0x3C, 0x38, 0x38, 0x3C, 0x38, 0x38, 0x3C, 0x38, 0x28, 0x2C, 0x28,
     0x28, 0x2C, 0x28, 0x88, 0x8C, 0x88, 0x08, 0x0C, 0x08, 0xC8, 0xCC, 0xC8, 0x08, 0x0C, 0x08, 0x18, 0x1C, 0x18,
     0x08, 0x0C, 0x08, 0x68, 0x6C, 0x68, 0x08, 0x0C, 0x08, 0x28, 0x2C, 0x28] := by decide
/-- V17: begin before init. -/
theorem test_begin_refused : exec .begin State.reset = .next { State.reset with refusal := some .noConfig } := rfl

/-! ### Micro-operations and primitives: V5, V11, V13 -/

/-- What an instruction's step leaves in an empty trace. -/
def stepMarks (i : Instr) (s : State) : List Nat :=
  match exec i s with
  | .next t => marks t.trace
  | .fault _ => []
  | .refused _ => []

/-- R183: `W(0x30)` writes 0x38. -/
theorem test_w : stepMarks (.w (.lit 0x30)) (ready 2 acks) = [0x38] := by decide
theorem test_t : stepMarks (.t 50) (ready 2 acks) = [1000000050] := by decide
/-- V13: Err on `B` in begin. -/
theorem test_b_err : (match exec .b ((configured [{ answer := .err .timeout, taken := false }]).accept .begin) with
    | .next t => decide (t.result = some (.transportError { kind := .timeout, upc := 0, byte := none }) ∧
        t.phase = .configured ∧ t.link = .suspect ∧ t.expOut = .unknown ∧ t.busy = false)
    | .fault _ => false
    | .refused _ => false) = true := by decide
/-- R186. -/
theorem test_set : (match exec (.set .ctrl (.or (.reg .ctrl) (.lit 0x04))) { ready 2 [] with ctrl := some 0x00 } with
    | .next t => decide (t.ctrl = some 0x04 ∧ t.upc = 1 ∧ t.trace = [])
    | .fault _ => false
    | .refused _ => false) = true := by decide
theorem test_pulseNibble : stepMarks (.pulseNibble (.lit 0x20)) { ready 2 acks with bl := some 0x00 } =
    [0x20, 0x24, 1000000001, 0x20, 1000000050] := by decide
/-- V5: 0xA5 as data with the backlight off. -/
theorem test_sendByte : stepMarks (.sendByte (.lit 0xA5) .data) { ready 2 acks with bl := some 0x00 } =
    [0xA1, 0xA5, 1000000001, 0xA1, 1000000050, 0x51, 0x55, 1000000001, 0x51, 1000000050] := by decide
/-- P4: a failure at index 3 of `writeChar 0x41` that reached the expander. -/
theorem test_abort_taken : (match microRun (expand (.writeChar 0x41))
      (ready 2 [okDraw, okDraw, { answer := .err .unreachable, taken := true }]) with
    | .aborted t => decide (t.expOut = .known 0x49 ∧ t.upc = 3 ∧ t.link = .suspect ∧ t.phase = .ready)
    | .advanced _ => false
    | .fault _ => false) = true := by decide

/-- R210: the numeric codes of the results. -/
theorem test_result_codes : Result.ok.code = 0 ∧
    (Result.transportError { kind := .nack, upc := 3, byte := none }).code = 1 ∧
    (Result.configError .rows).code = 2 := by decide

/-- C6: bit 7 of the address field is 0. -/
theorem test_transportAddr : transportAddr 0x7F = 0b01111111 := by decide

/-- R195 item 4: a failed EN-high write cuts a pulse short, so does a failed EN-low write after one, a failed setup write
does not. -/
theorem test_cutPulse : cutPulse [] 0x27 0x9D = some 0x9D ∧
    cutPulse [.write 0x27 0x9D .ack] 0x27 0x99 = some 0x9D ∧
    cutPulse [.write 0x27 0x9D .ack, .write 0x27 0x99 .ack] 0x27 0x49 = none := by decide

/-! ### Witnesses for the hypotheses of the statements -/

theorem witness_DecodeInvertsEncode : encode (.writeText [0xFF]) = some [0x0E, 0xFF] := rfl

theorem witness_EncodeInvertsDecode : decode [0x0A, 0x01] = .ok (.setBacklight true) := rfl

/-- All bits a flag register can have. -/
theorem witness_CommandBytesCarryTheirFields :
    ((0x07 : Byte) &&& 0xF8 = 0 ∧ (0x00 : Byte) &&& 0xF8 = 0) ∧ ((0x03 : Byte) &&& 0xFC = 0 ∧ (0x00 : Byte) &&& 0xFC = 0) := by
  decide

theorem witness_TextSyntaxRoundTrip :
    Text.render (.setCursorPosition 0 255) = some "setCursorPosition 0x00, 0xff".toList := by decide

theorem witness_StepRunsTheDecodedRequest :
    ((ready 2 acks).offer [0x02]).busy = false ∧ ((ready 2 acks).offer [0x02]).inbox = [0x02] :: [] ∧
      decode [0x02] = .ok .clear := ⟨rfl, rfl, rfl⟩

theorem witness_StepExecutesTheMicroOperationAtUpc :
    ((ready 2 acks).accept (.setBacklight false)).busy = true ∧
      ((ready 2 acks).accept (.setBacklight false)).uprog[((ready 2 acks).accept (.setBacklight false)).upc]? =
        some (.set .bl (.lit 0x00)) := ⟨rfl, rfl⟩

/-- An empty text is at the end of its micro-program at once. -/
theorem witness_StepCompletesAtTheEndOfTheProgram :
    ((ready 2 acks).accept (.writeText [])).busy = true ∧
      ((ready 2 acks).accept (.writeText [])).upc = ((ready 2 acks).accept (.writeText [])).uprog.length :=
  ⟨rfl, rfl⟩

theorem witness_IdleBlockStaysIdle : (ready 2 acks).busy = false ∧ (ready 2 acks).inbox = [] := ⟨rfl, rfl⟩

theorem witness_BusyBlockHoldsRequests_exec :
    ((ready 2 acks).accept .clear).busy = true ∧ encode .home = some [0x03] := ⟨rfl, rfl⟩

theorem witness_BusyBlockHoldsRequests_step :
    ((ready 2 acks).accept .clear).busy = true ∧ ∃ t, step ((ready 2 acks).accept .clear) = .next t := ⟨rfl, _, rfl⟩

theorem witness_UnassignedCodeIsRefused :
    (State.reset.offer [0x0F]).busy = false ∧ (State.reset.offer [0x0F]).inbox = (0x0F :: []) :: [] := ⟨rfl, rfl⟩

/-- Each clause: a second init in either phase, begin before init, another request before init and before begin. -/
theorem witness_OutOfOrderRequestsAreRefused :
    ((ready 2 acks).busy = false ∧ (ready 2 acks).phase ≠ .unconfigured) ∧
    ((configured acks).busy = false ∧ (configured acks).phase ≠ .unconfigured) ∧
    (State.reset.busy = false ∧ State.reset.phase = .unconfigured) ∧
    (Instr.clear.reqCode.isSome ∧ Instr.clear.reqCode ≠ some 0 ∧ Instr.clear ≠ .begin ∧
      State.reset.phase = .unconfigured ∧ (configured acks).phase = .configured) := by decide

/-- The smallest and the largest counts; both zero and either one alone; both later phases. -/
theorem witness_InitIsOneAtomicStep :
    (State.reset.busy = false ∧ State.reset.phase = .unconfigured ∧ (1 : Byte) ≠ 0 ∧ (255 : Byte) ≠ 0) ∧
    (((0 : Byte) = 0 ∨ (0 : Byte) = 0) ∧ ((0 : Byte) = 0 ∨ (1 : Byte) = 0) ∧ ((1 : Byte) = 0 ∨ (0 : Byte) = 0)) ∧
    ((configured acks).busy = false ∧ (configured acks).phase ≠ .unconfigured) ∧
    ((ready 2 acks).busy = false ∧ (ready 2 acks).phase ≠ .unconfigured) := by decide

theorem acks_enough (n : Nat) (h : n ≤ 54) {s : State} (hs : s.script = acks) : s.nextAcks n := by
  refine nextAcks_of_script (b := true) (rest := List.replicate (54 - n) okDraw) (hs.trans ?_)
  have hsum : n + (54 - n) = 54 := by omega
  rw [acks, ← hsum, List.replicate_add, Nat.add_sub_cancel_left]
  rfl

/-- First from Configured, then again from Ready. -/
theorem witness_BeginRunsThePowerUpSequence :
    ((configured acks).busy = false ∧ (configured acks).phase ≠ .unconfigured ∧
      (configured acks).cfgAddr = some 0x27 ∧ (configured acks).func = some 0x08 ∧
      (configured acks).bl = some 0x08 ∧ (configured acks).nextAcks 44) ∧
    ((ready 2 acks).busy = false ∧ (ready 2 acks).phase ≠ .unconfigured ∧ (ready 2 acks).cfgAddr = some 0x27 ∧
      (ready 2 acks).func = some 0x08 ∧ (ready 2 acks).bl = some 0x08 ∧ (ready 2 acks).nextAcks 44) :=
  ⟨⟨rfl, by decide, rfl, rfl, rfl, acks_enough 44 (by decide) rfl⟩,
   ⟨rfl, by decide, rfl, rfl, rfl, acks_enough 44 (by decide) rfl⟩⟩

theorem readyIdle (rows : Byte) (script : List BusDraw) : (ready rows script).ReadyIdle 0x27 0x08 :=
  ⟨rfl, rfl, rfl, rfl⟩

theorem witness_ClearAndHomeSendTheirCommandAndWait :
    (ready 2 acks).ReadyIdle 0x27 0x08 ∧ (ready 2 acks).nextAcks 6 :=
  ⟨readyIdle _ _, acks_enough 6 (by decide) rfl⟩

theorem witness_DisplayFlagRequestsSendTheWholeRegister :
    (ready 2 acks).ReadyIdle 0x27 0x08 ∧ (ready 2 acks).ctrl = some 0x04 ∧ (ready 2 acks).nextAcks 6 :=
  ⟨readyIdle _ _, rfl, acks_enough 6 (by decide) rfl⟩

theorem witness_EntryModeRequestsSendTheWholeRegister :
    (ready 2 acks).ReadyIdle 0x27 0x08 ∧ (ready 2 acks).entry = some 0x02 ∧ (ready 2 acks).nextAcks 6 :=
  ⟨readyIdle _ _, rfl, acks_enough 6 (by decide) rfl⟩

theorem witness_ScrollSendsTheCursorShift :
    (ready 2 acks).ReadyIdle 0x27 0x08 ∧ (ready 2 acks).nextAcks 6 :=
  ⟨readyIdle _ _, acks_enough 6 (by decide) rfl⟩

theorem witness_SetBacklightWritesOneByte :
    (ready 2 acks).ReadyIdle 0x27 0x08 ∧ (ready 2 acks).nextAcks 1 :=
  ⟨readyIdle _ _, acks_enough 1 (by decide) rfl⟩

/-- Row 2 of 2 rows (not clamped, row 2), row 3 of 2 rows (clamped to 1), row 3 of 4 rows (the last of the table), row 5
of 4 rows (clamped to 3). -/
theorem witness_SetCursorPositionSendsTheDdramAddress :
    (ready 2 acks).ReadyIdle 0x27 0x08 ∧ (ready 2 acks).cfgRows = some 2 ∧ (ready 2 acks).nextAcks 6 ∧
    (ready 4 acks).ReadyIdle 0x27 0x08 ∧ (ready 4 acks).cfgRows = some 4 ∧ (ready 4 acks).nextAcks 6 ∧
    [(0x00 : Byte), 0x40, 0x14, 0x54][if (2 : Byte).toNat > (2 : Byte).toNat then (2 : Byte).toNat - 1
      else (2 : Byte).toNat]? = some 0x14 ∧
    [(0x00 : Byte), 0x40, 0x14, 0x54][if (3 : Byte).toNat > (2 : Byte).toNat then (2 : Byte).toNat - 1
      else (3 : Byte).toNat]? = some 0x40 ∧
    [(0x00 : Byte), 0x40, 0x14, 0x54][if (3 : Byte).toNat > (4 : Byte).toNat then (4 : Byte).toNat - 1
      else (3 : Byte).toNat]? = some 0x54 ∧
    [(0x00 : Byte), 0x40, 0x14, 0x54][if (5 : Byte).toNat > (4 : Byte).toNat then (4 : Byte).toNat - 1
      else (5 : Byte).toNat]? = some 0x54 :=
  ⟨readyIdle _ _, rfl, acks_enough 6 (by decide) rfl, readyIdle _ _, rfl, acks_enough 6 (by decide) rfl, rfl, rfl, rfl,
   rfl⟩

/-- Row 4 of 4 rows, and row 255 of 5 rows (V15). -/
theorem witness_SetCursorPositionFaultsPastTheTable :
    (ready 4 acks).ReadyIdle 0x27 0x08 ∧ (ready 4 acks).cfgRows = some 4 ∧
    4 ≤ (if (4 : Byte).toNat > (4 : Byte).toNat then (4 : Byte).toNat - 1 else (4 : Byte).toNat) ∧
    (ready 5 acks).ReadyIdle 0x27 0x08 ∧ (ready 5 acks).cfgRows = some 5 ∧
    4 ≤ (if (255 : Byte).toNat > (5 : Byte).toNat then (5 : Byte).toNat - 1 else (255 : Byte).toNat) :=
  ⟨readyIdle _ _, rfl, by decide, readyIdle _ _, rfl, by decide⟩

theorem witness_DefineGlyphSendsTheAddressAndThePattern :
    (ready 2 acks).ReadyIdle 0x27 0x08 ∧ (ready 2 acks).nextAcks 54 :=
  ⟨readyIdle _ _, acks_enough 54 (by decide) rfl⟩

theorem witness_WriteCharSendsOneDataByte : (ready 2 acks).ReadyIdle 0x27 0x08 ∧ (ready 2 acks).nextAcks 6 :=
  ⟨readyIdle _ _, acks_enough 6 (by decide) rfl⟩

/-- An empty text, and one of nine bytes. -/
theorem witness_WriteTextSendsItsBytesInOrder :
    (ready 2 []).ReadyIdle 0x27 0x08 ∧ (ready 2 []).nextAcks (6 * ([] : List Byte).length) ∧
    (ready 2 acks).ReadyIdle 0x27 0x08 ∧ (ready 2 acks).nextAcks (6 * (List.replicate 9 (0x41 : Byte)).length) :=
  ⟨readyIdle _ _, trivial, readyIdle _ _, acks_enough 54 (by decide) rfl⟩

theorem witness_ExpanderWriteAcknowledged :
    evalExpr (ready 2 acks) (.lit 0x30) = .ok 0x30 ∧ (ready 2 acks).bl = some 0x08 ∧
      (ready 2 acks).cfgAddr = some 0x27 ∧ (ready 2 acks).nextDraw.answer = .ack := ⟨rfl, rfl, rfl, rfl⟩

/-- A state whose next bus operation fails. -/
def failing (kind : ErrKind) (taken : Bool) : State := ready 2 [{ answer := .err kind, taken := taken }]

theorem witness_ExpanderWriteFailureAborts :
    evalExpr (failing .timeout true) (.lit 0x30) = .ok 0x30 ∧ (failing .timeout true).bl = some 0x08 ∧
      (failing .timeout true).cfgAddr = some 0x27 ∧ (failing .timeout true).nextDraw.answer = .err .timeout :=
  ⟨rfl, rfl, rfl, rfl⟩

/-- Each clause: an operand that faults in `W` and in `SET`, BL and CFG_ADDR at `⊥`, each register at `⊥`, registers at `⊥`
inside a nibble's operand, and an operand whose register is written. -/
theorem witness_UnwrittenReadsFault :
    evalExpr State.reset (.reg .ctrl) = .error (.unwrittenRead .ctrl) ∧
    (evalExpr State.reset (.lit 0) = .ok 0 ∧ State.reset.bl = none) ∧
    (evalExpr { State.reset with bl := some 0x08 } (.lit 0) = .ok 0 ∧
      ({ State.reset with bl := some 0x08 } : State).bl = some 0x08 ∧
      ({ State.reset with bl := some 0x08 } : State).cfgAddr = none) ∧
    State.reset.func = none ∧ State.reset.ctrl = none ∧ State.reset.entry = none ∧ State.reset.bl = none ∧
    State.reset.cfgRows = none ∧
    (exprReads .ctrl (highNibble (.or (.lit 0x08) (.reg .ctrl)) .command) ∧ State.reset.unwritten .ctrl) ∧
    (exprReads .cfgRows (lowNibble (.ddramCmd 0 0) .command) ∧ State.reset.unwritten .cfgRows) ∧
    evalExpr State.reset (.and (.reg .ctrl) (.lit 0xFB)) = .error (.unwrittenRead .ctrl) ∧
    (∀ r, exprReads r (.or (.lit 0x08) (.reg .ctrl)) → ¬ (ready 2 acks).unwritten r) :=
  ⟨rfl, ⟨rfl, rfl⟩, ⟨rfl, rfl, rfl⟩, rfl, rfl, rfl, rfl, rfl, ⟨by simp [highNibble, exprReads, flagRegName], rfl⟩,
    ⟨by simp [lowNibble, exprReads], rfl⟩, rfl, by intro r h; cases r <;> simp [exprReads, flagRegName] at h; exact nofun⟩

theorem witness_BusAcquisitionAdvancesOrAborts :
    (configured acks).nextDraw.answer = .ack ∧ (failing .unreachable false).nextDraw.answer = .err .unreachable :=
  ⟨rfl, rfl⟩

theorem witness_SetWritesItsRegister : evalExpr (ready 2 acks) (.or (.reg .ctrl) (.lit 0x01)) = .ok 0x05 := rfl

theorem witness_NibbleTransferMakesThreeWrites :
    evalExpr (ready 2 acks) (.lit 0xF1) = .ok 0xF1 ∧ (ready 2 acks).bl = some 0x08 ∧
      (ready 2 acks).cfgAddr = some 0x27 ∧ (ready 2 acks).nextAcks 3 :=
  ⟨rfl, rfl, rfl, acks_enough 3 (by decide) rfl⟩

theorem witness_ByteTransferSendsHighNibbleFirst :
    evalExpr (ready 2 acks) (.lit 0xA5) = .ok 0xA5 ∧ (ready 2 acks).bl = some 0x08 ∧
      (ready 2 acks).cfgAddr = some 0x27 ∧ (ready 2 acks).nextAcks 6 :=
  ⟨rfl, rfl, rfl, acks_enough 6 (by decide) rfl⟩

/-- The whole micro-program of writeChar is a byte transfer; the first five micro-operations of clear are a nibble
transfer. -/
theorem witness_PrimitivesAreTheirMicroOperations :
    (((ready 2 acks).accept (.writeChar 0x41)).busy = true ∧
      ((ready 2 acks).accept (.writeChar 0x41)).uprog.drop ((ready 2 acks).accept (.writeChar 0x41)).upc =
        byteProg (.lit 0x41) .data ++ []) ∧
    (((ready 2 acks).accept .clear).busy = true ∧
      ((ready 2 acks).accept .clear).uprog.drop ((ready 2 acks).accept .clear).upc =
        nibbleProg (highNibble (.lit 0x01) .command) ++
          (nibbleProg (lowNibble (.lit 0x01) .command) ++ [.t 2000])) :=
  ⟨⟨rfl, rfl⟩, ⟨rfl, rfl⟩⟩

/-- A state whose third bus operation fails. -/
def failingThird : State := ready 2 [okDraw, okDraw, { answer := .err .nack, taken := false }]

theorem witness_FailedEnableLowLeavesEnableHigh :
    evalExpr failingThird (.lit 0x40) = .ok 0x40 ∧ failingThird.bl = some 0x08 ∧ failingThird.cfgAddr = some 0x27 ∧
      failingThird.nextAcks 2 ∧
      (failingThird.afterDraws 2).nextDraw = { answer := .err .nack, taken := false } :=
  ⟨rfl, rfl, rfl, ⟨rfl, rfl, trivial⟩, rfl⟩

/-- setDisplay whose first write fails: the `SET` before it has taken effect. -/
theorem witness_AbortIsPrecise :
    ((failing .nack false).accept (.setDisplay false)).busy = true ∧
      ((failing .nack false).accept (.setDisplay false)).upc = 0 ∧
      ∃ pre m post t u, ((failing .nack false).accept (.setDisplay false)).uprog = pre ++ m :: post ∧
        microRun pre ((failing .nack false).accept (.setDisplay false)) = .advanced t ∧ micro m t = .aborted u ∧
        t.ctrl = some 0x00 :=
  ⟨rfl, rfl, [_], _, _, _, _, rfl, rfl, rfl, rfl⟩

/-! #### States that meet the invariant -/

theorem inv_configured (script : List BusDraw) : (configured script).Inv where
  blank h := by cases h
  configured _ := ⟨rfl, ⟨16, rfl, by decide⟩, ⟨2, .dots5x8, rfl, by decide, rfl, rfl⟩, .inl rfl⟩
  begun h := by cases h
  ctrlBits x h := by cases h
  entryBits x h := by cases h
  idle _ := rfl
  running h := by cases h
  pc := Nat.le_refl 0
  beginSets h := by cases h
  position _ _ _ h := by cases h
  writes a v o h := by cases h
  expOut v h := by cases h

/-- setCursorPosition 0, 4 just taken on a display with 4 rows: the next step faults (V15). -/
def pastTheTable : State := (ready 4 acks).accept (.setCursorPosition 0 4)

/-- A request just taken in phase Ready keeps the invariant. -/
theorem inv_accepted (rows : Byte) (script : List BusDraw) (q : Instr) (hr : rows ≠ 0) (hq : q.reqCode.isSome)
    (h0 : q.reqCode ≠ some 0) (hb : q ≠ .begin) : ((ready rows script).accept q).Inv where
  blank h := by cases h
  configured _ := ⟨rfl, ⟨16, rfl, by decide⟩, ⟨rows, .dots5x8, rfl, hr, rfl, rfl⟩, .inl rfl⟩
  begun _ := ⟨rfl, rfl, by simp [State.accept, ready]⟩
  ctrlBits x h := by cases h; decide
  entryBits x h := by cases h; decide
  idle h := by cases h
  running _ := ⟨⟨q, rfl, hq, h0, rfl, .inr rfl⟩⟩
  pc := Nat.zero_le _
  beginSets h := absurd (Option.some.inj h) hb
  position _ _ _ _ _ h := absurd h (Nat.lt_irrefl 0)
  writes a v o h := by
    simp [State.accept, ready, State.reset] at h
  expOut v h := by cases h

theorem witness_StepKeepsTheInvariant :
    (configured acks).Inv ∧ (∃ t, step (configured acks) = .next t) ∧
      ((ready 2 acks).accept .clear).Inv ∧ ∃ t, step ((ready 2 acks).accept .clear) = .next t :=
  ⟨inv_configured _, ⟨_, rfl⟩,
   inv_accepted _ _ _ (by decide) (by decide) (by decide) (by decide), ⟨_, rfl⟩⟩

theorem witness_OnlyTheRowTableFaults : pastTheTable.Inv ∧ step pastTheTable = .fault .rowOffsetOutOfTable :=
  ⟨inv_accepted _ _ _ (by decide) (by decide) (by decide) (by decide), rfl⟩

theorem witness_ConfigurationIsNeverMutated :
    ((ready 2 acks).offer [0x00, 0x3F, 20, 4, 0]).phase ≠ .unconfigured ∧
      ∃ t, step ((ready 2 acks).offer [0x00, 0x3F, 20, 4, 0]) = .next t := ⟨by decide, _, rfl⟩

/-- CTRL, ENTRY and BL each change in some step: by their `SET`, and BL by init. -/
theorem witness_FlagRegistersChangeOnlyBySet :
    (∃ t, step ((ready 2 acks).accept (.setDisplay false)) = .next t ∧
      t.ctrl ≠ ((ready 2 acks).accept (.setDisplay false)).ctrl) ∧
    (∃ t, step ((ready 2 acks).accept (.setAutoscroll true)) = .next t ∧
      t.entry ≠ ((ready 2 acks).accept (.setAutoscroll true)).entry) ∧
    (∃ t, step ((ready 2 acks).accept (.setBacklight false)) = .next t ∧
      t.bl ≠ ((ready 2 acks).accept (.setBacklight false)).bl) ∧
    (∃ t, step (State.reset.offer [0x00, 0x27, 16, 2, 0]) = .next t ∧
      t.bl ≠ (State.reset.offer [0x00, 0x27, 16, 2, 0]).bl) :=
  ⟨⟨_, rfl, by decide⟩, ⟨_, rfl, by decide⟩, ⟨_, rfl, by decide⟩, ⟨_, rfl, by decide⟩⟩

theorem witness_TraceIsAppendOnly : ∃ t, step ((ready 2 acks).accept .clear) = .next t := ⟨_, rfl⟩

/-- One that advances and one that aborts. -/
theorem witness_MicroOperationsNeverJump :
    (((ready 2 acks).accept .clear).busy = true ∧
      (∃ m, ((ready 2 acks).accept .clear).uprog[((ready 2 acks).accept .clear).upc]? = some m) ∧
      ∃ t, step ((ready 2 acks).accept .clear) = .next t ∧ t.busy = true) ∧
    (((failing .nack true).accept .clear).busy = true ∧
      (∃ m, ((failing .nack true).accept .clear).uprog[((failing .nack true).accept .clear).upc]? = some m) ∧
      ∃ t, step ((failing .nack true).accept .clear) = .next t ∧ t.busy = false) :=
  ⟨⟨rfl, ⟨_, rfl⟩, _, rfl, rfl⟩, ⟨rfl, ⟨_, rfl⟩, _, rfl, rfl⟩⟩

/-- begin at the end of its micro-program. -/
def beginDone : State := { (configured []).accept .begin with upc := progBegin.length }

/-- LINK changes by a begin that completes and by an abort. -/
theorem witness_OnlyBeginAndAbortsWriteLink :
    (∃ t, step beginDone = .next t ∧ t.link ≠ beginDone.link) ∧
    (∃ t, step ((failing .nack true).accept .clear) = .next t ∧ t.link ≠ ((failing .nack true).accept .clear).link) :=
  ⟨⟨_, rfl, by decide⟩, ⟨_, rfl, by decide⟩⟩

/-- PHASE changes by init, by begin completing and by begin aborting (from Ready). -/
theorem witness_PhaseMovesOnlyByInitAndBegin :
    (∃ t, step (State.reset.offer [0x00, 0x27, 16, 2, 0]) = .next t ∧
      t.phase ≠ (State.reset.offer [0x00, 0x27, 16, 2, 0]).phase) ∧
    (∃ t, step beginDone = .next t ∧ t.phase ≠ beginDone.phase) ∧
    (∃ t, step ((failing .timeout false).accept .begin) = .next t ∧
      t.phase ≠ ((failing .timeout false).accept .begin).phase) :=
  ⟨⟨_, rfl, by decide⟩, ⟨_, rfl, by decide⟩, ⟨_, rfl, by decide⟩⟩

/-- A step that keeps a mark, and one that sets it. -/
theorem witness_RefusalMarkIsSetAloneAndKept :
    (∃ t, step (State.offer { State.reset with refusal := some .noConfig } [0x0F]) = .next t ∧
      (State.offer { State.reset with refusal := some .noConfig } [0x0F]).refusal = some .noConfig) ∧
    (∃ t, step (State.reset.offer [0x02]) = .next t ∧ (State.reset.offer [0x02]).refusal = none ∧
      t.refusal = some .noConfig) :=
  ⟨⟨_, rfl, rfl⟩, ⟨_, rfl, rfl, rfl⟩⟩

theorem witness_EveryWriteCarriesTheBacklight :
    ((ready 2 acks).accept .clear).Inv ∧ ∃ t, step ((ready 2 acks).accept .clear) = .next t ∧
      Event.write 0x27 0x08 .ack ∈ t.trace.drop ((ready 2 acks).accept .clear).trace.length :=
  ⟨inv_accepted _ _ _ (by decide) (by decide) (by decide) (by decide), _, rfl, by decide⟩

theorem witness_MicroProgramsAreWellFormed :
    (Instr.setBacklight false).reqCode.isSome ∧ Uop.set .bl (.lit 0x00) ∈ expand (.setBacklight false) := by decide

/-- Reset with init and begin offered, and 54 acknowledged bus operations. -/
def boot : State :=
  { State.reset with inbox := [[0x00, 0x27, 16, 2, 0], [0x01], [0x0D, 0x41]], script := acks }

theorem witness_BootSequenceReachesReady :
    boot.phase = .unconfigured ∧ boot.busy = false ∧ (16 : Byte) ≠ 0 ∧ (2 : Byte) ≠ 0 ∧
      encode (.init 0x27 16 2 .dots5x8) = some [0x00, 0x27, 16, 2, 0] ∧ encode .begin = some [0x01] ∧
      boot.inbox = [0x00, 0x27, 16, 2, 0] :: [0x01] :: [[0x0D, 0x41]] ∧ boot.nextAcks 44 ∧ boot.noRefusal :=
  ⟨rfl, rfl, by decide, by decide, rfl, rfl, rfl, acks_enough 44 (by decide) rfl, rfl⟩

theorem witness_ByteTransferLatchesTheByte : ((0x08 : Byte) = 0x08 ∨ (0x08 : Byte) = 0x00) ∧
    ((0x00 : Byte) = 0x08 ∨ (0x00 : Byte) = 0x00) := by decide

/-- The trace of a begin and its session. -/
def beginTrace : List Event := [.accept .begin] ++ beginEvents 0x27 0x08 0x08 ++ [.complete .ok]

/-- The session of `beginTrace`. -/
def beginSession : List Event := beginEvents 0x27 0x08 0x08 ++ [.complete .ok]

theorem session_beginTrace : session beginTrace = some (true, beginSession) := by
  simp [session, beginTrace, beginSession, beginEvents, byteEvents, nibbleEvents, sessionStep, isBegin]

theorem witness_TextAppearsOnTheWire :
    session beginTrace = some (true, beginSession) ∧ WholeBytes 0x27 beginSession ∧
      ((0x08 : Byte) = 0x08 ∨ (0x08 : Byte) = 0x00) := by
  refine ⟨session_beginTrace, ⟨?_, ?_, by decide, by decide⟩, by decide⟩
  · intro x hx
    have hall : (ackWrites beginSession).all (fun x => x.1 == 0x27) = true := by decide
    exact beq_iff_eq.1 (List.all_eq_true.1 hall x hx)
  intro x hx
  have hl : (ackWrites beginSession).getLast? = some (0x27, 0x28) := by decide
  cases hl.symm.trans hx
  rfl

theorem witness_BeginPutsFiveCommandsOnTheWire : (0x00 : Byte) = 0x08 ∨ (0x00 : Byte) = 0x00 := by decide

theorem witness_BacklightWriteLatchesNothing :
    ((0x08 : Byte) = 0x08 ∨ (0x08 : Byte) = 0x00) ∧
      (∀ x ∈ ackWrites (byteEvents 0x27 0x41 0x01 0x08), x.1 = 0x27) ∧
      (∀ x, (ackWrites (byteEvents 0x27 0x41 0x01 0x08)).getLast? = some x → enHigh x.2 = false) := by
  refine ⟨by decide, ?_, ?_⟩
  · intro x hx
    have hall : (ackWrites (byteEvents 0x27 0x41 0x01 0x08)).all (fun x => x.1 == 0x27) = true := by decide
    exact beq_iff_eq.1 (List.all_eq_true.1 hall x hx)
  intro x hx
  have hl : (ackWrites (byteEvents 0x27 0x41 0x01 0x08)).getLast? = some (0x27, 0x19) := by decide
  cases hl.symm.trans hx
  rfl

/-- The members of each list of requests. -/
theorem witness_RequestsHaveTheirMinimumDurations :
    Instr.home ∈ [Instr.clear, .home] ∧
    Instr.setAutoscroll true ∈ [Instr.setDisplay true, .setCursor true, .setBlink true, .setEntryDirection true,
      .setAutoscroll true] ∧
    Instr.writeChar 0 ∈ [Instr.scroll .left, .setCursorPosition 0 0, .writeChar 0] := by decide

/-- A write, two waits and a write; and a write answered `Timeout` at the least time. -/
theorem witness_WaitsSeparateTheirNeighbours :
    legalSchedule ([] ++ { event := .write 0x27 0x38 .ack, start := 0, finish := 3 } ::
      ([{ event := .wait 50, start := 3, finish := 60 }, { event := .wait 4500, start := 60, finish := 4560 }] ++
        { event := .write 0x27 0x3C .ack, start := 4560, finish := 4561 } :: [])) ∧
    legalSchedule [{ event := .write 0x27 0x38 (.err .timeout), start := 0, finish := 1000 * Config.busTimeoutMs }] :=
  ⟨⟨Nat.zero_le _, Nat.le_refl _, Nat.le_of_ble_eq_true rfl, Nat.le_refl _, Nat.le_of_ble_eq_true rfl, Nat.le_refl _,
    Nat.le_of_ble_eq_true rfl⟩, Nat.le_of_eq (Nat.zero_add _)⟩

/-- A failed write with more requests but no begin after it; then with a begin that has not completed; a step that
aborts; and each kind of failed write: the EN-high one, the EN-low one after it, a setup write with nothing before it and
one after an EN-low write. -/
theorem witness_FailedWriteEndsTheWireBytes :
    Event.accept .begin ∉ [Event.complete (.transportError { kind := .nack, upc := 3, byte := some 0x49 }),
      .accept .clear] ∧
    Event.complete .ok ∉ beginEvents 0x27 0x08 0x08 ∧
    (((failing .nack true).accept .clear).busy = true ∧ ∃ t, step ((failing .nack true).accept .clear) = .next t ∧
      t.busy = false ∧ t.result ≠ some .ok) ∧
    (0x4D : Byte).getLsbD 2 = true ∧
    ((0x49 : Byte).getLsbD 2 = false ∧ lastAck 0x27 [.write 0x27 0x4D .ack] = some 0x4D) ∧
    ((0x49 : Byte).getLsbD 2 = false ∧ (∀ u, lastAck 0x27 [] = some u → u.getLsbD 2 = false)) ∧
    (∀ u, lastAck 0x27 [.write 0x27 0x4D .ack, .write 0x27 0x49 .ack] = some u → u.getLsbD 2 = false) := by
  refine ⟨by decide, by decide, ⟨rfl, _, rfl, rfl, by decide⟩, by decide, by decide, ⟨by decide, ?_⟩, ?_⟩
  · intro u h
    cases h
  · intro u h
    have hl : lastAck 0x27 [.write 0x27 0x4D .ack, .write 0x27 0x49 .ack] = some 0x49 := by decide
    cases hl.symm.trans h
    rfl

end Sys2Proof.Tests
end

section
/-! PROOFS. Operands that read a register holding `⊥` (R9, R20, R161, R241): how an operand's value or fault comes from
its parts, and what the fault of an operand does to the instruction that holds it. -/

namespace Sys2Proof.Machine

/-! ### When a register is read -/

theorem need_error_iff {α : Type} {r : RegName} {x : Option α} {f : Fault} :
    need r x = .error f ↔ x = none ∧ f = .unwrittenRead r := by
  cases x <;> simp [need, eq_comm]

/-- The fault of a flag register as an operand: it holds `⊥`, and the fault names it. -/
theorem evalExpr_reg_error_iff {s : State} {x : FlagReg} {f : Fault} :
    evalExpr s (.reg x) = .error f ↔ s.unwritten (flagRegName x) ∧ f = .unwrittenRead (flagRegName x) := by
  cases x <;> exact need_error_iff

theorem evalExpr_reg_of_unwritten {s : State} {x : FlagReg} (h : s.unwritten (flagRegName x)) :
    evalExpr s (.reg x) = .error (.unwrittenRead (flagRegName x)) :=
  evalExpr_reg_error_iff.2 ⟨h, rfl⟩

theorem evalExpr_ddramCmd_of_unwritten {s : State} (col row : Byte) (h : s.cfgRows = none) :
    evalExpr s (.ddramCmd col row) = .error (.unwrittenRead .cfgRows) := by
  simp [evalExpr, h, need]

/-- The two faults of `ddram_cmd`: CFG_ROWS at `⊥`, or a clamped row past the table (R161). -/
theorem evalExpr_ddramCmd_error {s : State} {col row : Byte} {f : Fault}
    (h : evalExpr s (.ddramCmd col row) = .error f) :
    f = .rowOffsetOutOfTable ∨ (s.cfgRows = none ∧ f = .unwrittenRead .cfgRows) := by
  cases hr : s.cfgRows with
  | none =>
    rw [evalExpr_ddramCmd_of_unwritten col row hr] at h
    exact .inr ⟨rfl, (Except.error.inj h).symm⟩
  | some rows =>
    simp only [evalExpr, hr, need, ddramCmd] at h
    split at h
    · cases h
    · exact .inl (Except.error.inj h).symm

/-! ### An operand's value or fault, from its parts -/

theorem evalExpr_or_ok {s : State} {a b : Expr} {v : Byte} (h : evalExpr s (.or a b) = .ok v) :
    (∃ x, evalExpr s a = .ok x) ∧ ∃ y, evalExpr s b = .ok y := by
  simp only [evalExpr] at h
  split at h
  next x y hx hy => exact ⟨⟨x, hx⟩, y, hy⟩
  next => cases h
  next => cases h

theorem evalExpr_and_ok {s : State} {a b : Expr} {v : Byte} (h : evalExpr s (.and a b) = .ok v) :
    (∃ x, evalExpr s a = .ok x) ∧ ∃ y, evalExpr s b = .ok y := by
  simp only [evalExpr] at h
  split at h
  next x y hx hy => exact ⟨⟨x, hx⟩, y, hy⟩
  next => cases h
  next => cases h

theorem evalExpr_shl4_ok {s : State} {a : Expr} {v : Byte} (h : evalExpr s (.shl4 a) = .ok v) :
    ∃ x, evalExpr s a = .ok x := by
  simp only [evalExpr] at h
  split at h
  next x hx => exact ⟨x, hx⟩
  next => cases h

theorem evalExpr_or_error {s : State} {a b : Expr} {f : Fault} (h : evalExpr s (.or a b) = .error f) :
    evalExpr s a = .error f ∨ evalExpr s b = .error f := by
  simp only [evalExpr] at h
  split at h
  next => cases h
  next g _ hg => exact .inl (hg.trans h)
  next _ g _ hg => exact .inr (hg.trans h)

theorem evalExpr_and_error {s : State} {a b : Expr} {f : Fault} (h : evalExpr s (.and a b) = .error f) :
    evalExpr s a = .error f ∨ evalExpr s b = .error f := by
  simp only [evalExpr] at h
  split at h
  next => cases h
  next g _ hg => exact .inl (hg.trans h)
  next _ g _ hg => exact .inr (hg.trans h)

theorem evalExpr_shl4_error {s : State} {a : Expr} {f : Fault} (h : evalExpr s (.shl4 a) = .error f) :
    evalExpr s a = .error f := by
  simp only [evalExpr] at h
  split at h
  next => cases h
  next g hg => exact hg.trans h

/-- The high nibble of an operand (R78) faults as the operand does. -/
theorem evalExpr_highNibble_error {s : State} {v : Expr} {f : Fault} (m : Mode) (h : evalExpr s v = .error f) :
    evalExpr s (highNibble v m) = .error f := by
  simp [highNibble, evalExpr, h]

/-! ### Which registers an operand's value and its fault speak of -/

/-- An operand evaluates only if every register it reads holds a value (R20). -/
theorem not_unwritten_of_evalExpr_ok {s : State} {r : RegName} {e : Expr} {v : Byte} (h : evalExpr s e = .ok v)
    (hr : exprReads r e) : ¬ s.unwritten r := by
  induction e generalizing v with
  | lit w => exact hr.elim
  | reg x =>
    obtain rfl : flagRegName x = r := hr
    intro hu
    cases h.symm.trans (evalExpr_reg_of_unwritten hu)
  | ddramCmd col row =>
    obtain rfl : RegName.cfgRows = r := hr
    intro hu
    cases h.symm.trans (evalExpr_ddramCmd_of_unwritten col row hu)
  | or a b iha ihb =>
    obtain ⟨⟨x, hx⟩, y, hy⟩ := evalExpr_or_ok h
    exact hr.elim (iha hx) (ihb hy)
  | and a b iha ihb =>
    obtain ⟨⟨x, hx⟩, y, hy⟩ := evalExpr_and_ok h
    exact hr.elim (iha hx) (ihb hy)
  | shl4 a ih =>
    obtain ⟨x, hx⟩ := evalExpr_shl4_ok h
    exact ih hx hr

/-- The fault `f` is one that the operand `e` can end in: the row table's, where `e` holds a `ddram_cmd`, or that of a
register `e` reads and that holds `⊥`. -/
def State.operandFault (s : State) (e : Expr) (f : Fault) : Prop :=
  f = .rowOffsetOutOfTable ∧ exprReads .cfgRows e ∨
    ∃ r, f = .unwrittenRead r ∧ exprReads r e ∧ s.unwritten r

/-- The faults an operand can end in grow with the registers it reads. -/
theorem State.operandFault.mono {s : State} {a e : Expr} {f : Fault} (h : s.operandFault a f)
    (hr : ∀ r, exprReads r a → exprReads r e) : s.operandFault e f := by
  rcases h with ⟨hf, hc⟩ | ⟨r, hf, ha, hu⟩
  · exact .inl ⟨hf, hr _ hc⟩
  · exact .inr ⟨r, hf, hr r ha, hu⟩

/-- An operand that does not evaluate ends in one of those faults (R20, R161). -/
theorem operandFault_of_evalExpr_error {s : State} {e : Expr} {f : Fault} (h : evalExpr s e = .error f) :
    s.operandFault e f := by
  induction e with
  | lit w => cases h
  | reg x =>
    obtain ⟨hu, hf⟩ := evalExpr_reg_error_iff.1 h
    exact .inr ⟨flagRegName x, hf, rfl, hu⟩
  | ddramCmd col row =>
    rcases evalExpr_ddramCmd_error h with hf | ⟨hu, hf⟩
    · exact .inl ⟨hf, rfl⟩
    · exact .inr ⟨.cfgRows, hf, rfl, hu⟩
  | or a b iha ihb =>
    rcases evalExpr_or_error h with ha | hb
    · exact (iha ha).mono fun _ => .inl
    · exact (ihb hb).mono fun _ => .inr
  | and a b iha ihb =>
    rcases evalExpr_and_error h with ha | hb
    · exact (iha ha).mono fun _ => .inl
    · exact (ihb hb).mono fun _ => .inr
  | shl4 a ih => exact (ih (evalExpr_shl4_error h)).mono fun _ => id

/-- An operand with a register at `⊥` anywhere in it does not evaluate. -/
theorem evalExpr_error_of_unwritten {s : State} {e : Expr} {r : RegName} (hr : exprReads r e) (hu : s.unwritten r) :
    ∃ f, evalExpr s e = .error f := by
  cases he : evalExpr s e with
  | ok v => exact absurd hu (not_unwritten_of_evalExpr_ok he hr)
  | error f => exact ⟨f, rfl⟩

/-- `UnwrittenRead` names a register that the operand reads and that holds `⊥`. -/
theorem reads_of_evalExpr_unwrittenRead {s : State} {e : Expr} {r : RegName}
    (h : evalExpr s e = .error (.unwrittenRead r)) : exprReads r e ∧ s.unwritten r := by
  rcases operandFault_of_evalExpr_error h with ⟨hf, -⟩ | ⟨r', hf, hr⟩
  · cases hf
  · obtain rfl := Fault.unwrittenRead.inj hf
    exact hr

/-- An operand that reads no register at `⊥` evaluates, or is past the row table. -/
theorem evalExpr_of_written {s : State} {e : Expr} (h : ∀ r, exprReads r e → ¬ s.unwritten r) :
    (∃ v, evalExpr s e = .ok v) ∨ (evalExpr s e = .error .rowOffsetOutOfTable ∧ exprReads .cfgRows e) := by
  cases he : evalExpr s e with
  | ok v => exact .inl ⟨v, rfl⟩
  | error f =>
    rcases operandFault_of_evalExpr_error he with ⟨rfl, hc⟩ | ⟨r, -, hr, hu⟩
    · exact .inr ⟨rfl, hc⟩
    · exact absurd hu (h r hr)

/-! ### The instruction that holds the operand -/

theorem microW_error {s : State} {x : Expr} {f : Fault} (h : evalExpr s x = .error f) : microW x s = .fault f := by
  simp [microW, h]

theorem microSet_error {s : State} {e : Expr} {f : Fault} (r : SetReg) (h : evalExpr s e = .error f) :
    microSet r e s = .fault f := by
  simp [microSet, h]

/-- Micro-operations that begin with a `W` whose operand faults fault there. -/
theorem microRun_w_error {s : State} {x : Expr} {f : Fault} (rest : List Uop) (h : evalExpr s x = .error f) :
    microRun (.w x :: rest) s = .fault f := by
  simp [microRun, micro, microW_error h]

theorem exec_w_error {s : State} {x : Expr} {f : Fault} (h : evalExpr s x = .error f) :
    exec (.w x) s = .fault f :=
  congrArg MicroOutcome.answer (microW_error h)

theorem exec_set_error {s : State} {e : Expr} {f : Fault} (r : SetReg) (h : evalExpr s e = .error f) :
    exec (.set r e) s = .fault f :=
  congrArg MicroOutcome.answer (microSet_error r h)

/-- NIBBLE begins with a `W` of its operand (R187). -/
theorem exec_pulseNibble_error {s : State} {n : Expr} {f : Fault} (h : evalExpr s n = .error f) :
    exec (.pulseNibble n) s = .fault f :=
  congrArg MicroOutcome.answer (microRun_w_error _ h)

/-- BYTE begins with a `W` of its operand's high nibble (R188). -/
theorem exec_sendByte_error {s : State} {v : Expr} {f : Fault} (m : Mode) (h : evalExpr s v = .error f) :
    exec (.sendByte v m) s = .fault f :=
  congrArg MicroOutcome.answer (microRun_w_error _ (evalExpr_highNibble_error m h))

/-- `W` reads BL after its operand (R183, R193). -/
theorem exec_w_bl_unwritten {s : State} {x : Expr} {v : Byte} (hx : evalExpr s x = .ok v) (hb : s.bl = none) :
    exec (.w x) s = .fault (.unwrittenRead .bl) := by
  have hw : microW x s = .fault (.unwrittenRead .bl) := by simp [microW, hx, hb, need]
  exact congrArg MicroOutcome.answer hw

/-- `W` reads CFG_ADDR after BL (R183). -/
theorem exec_w_cfgAddr_unwritten {s : State} {x : Expr} {v bl : Byte} (hx : evalExpr s x = .ok v)
    (hb : s.bl = some bl) (ha : s.cfgAddr = none) : exec (.w x) s = .fault (.unwrittenRead .cfgAddr) := by
  have hw : microW x s = .fault (.unwrittenRead .cfgAddr) := by simp [microW, hx, hb, ha, need]
  exact congrArg MicroOutcome.answer hw

/-- Settles O30: by induction on the operand, it evaluates only if every register it reads holds a value, and its fault
names a register it reads or the row table; an instruction whose first `W` or `SET` has that operand ends in its
fault. -/
theorem unwrittenReadsFault : Obligations.UnwrittenReadsFault := by
  refine ⟨fun _ _ _ => exec_w_error, fun _ r _ _ => exec_set_error r, fun _ _ _ => exec_w_bl_unwritten,
    fun _ _ _ _ => exec_w_cfgAddr_unwritten, fun _ => evalExpr_reg_of_unwritten (x := .func),
    fun _ => evalExpr_reg_of_unwritten (x := .ctrl), fun _ => evalExpr_reg_of_unwritten (x := .entry),
    fun _ => evalExpr_reg_of_unwritten (x := .bl), fun _ => evalExpr_ddramCmd_of_unwritten, fun s e r hr hu => ?_,
    fun _ _ _ => reads_of_evalExpr_unwrittenRead, fun _ _ => evalExpr_of_written⟩
  obtain ⟨f, hf⟩ := evalExpr_error_of_unwritten hr hu
  exact ⟨f, hf, operandFault_of_evalExpr_error hf, exec_w_error hf, fun x => exec_set_error x hf,
    exec_pulseNibble_error hf, fun m => exec_sendByte_error m hf⟩

end Sys2Proof.Machine
end

section
/-! PROOFS. What one step of the block changes: every next state is one of eight moves, and what a move changes of the
flag registers, the trace, UPC, LINK and PHASE (R31–R39, R100, R186, R196, R198). -/

namespace Sys2Proof.Machine

/-! ### The register a `SET` writes -/

/-- The value of the register that `SET` of `x` writes (R186). -/
def State.regValue (s : State) : SetReg → Option Byte
  | .ctrl => s.ctrl
  | .entry => s.entry
  | .bl => s.bl

theorem regValue_setFlag (s : State) (x y : SetReg) (v : Byte) :
    (s.setFlag x v).regValue y = if x = y then some v else s.regValue y := by
  cases x <;> cases y <;> rfl

/-- A micro-operation that advances keeps a flag register, or is the `SET` of it (R186). -/
theorem micro_advanced_regValue {m : Uop} {s t : State} (h : micro m s = .advanced t) (x : SetReg) :
    t.regValue x = s.regValue x ∨ ∃ e v, m = .set x e ∧ evalExpr s e = .ok v ∧ t.regValue x = some v := by
  rcases micro_advanced h with ⟨_, _, _, _, -, -, -, -, -, rfl⟩ | ⟨us, -, rfl⟩ | ⟨-, -, rfl⟩ | ⟨r, e, v, rfl, he, rfl⟩
  · cases x <;> simp [State.regValue]
  · cases x <;> exact .inl rfl
  · cases x <;> simp [State.regValue]
  · have hset : (s.setFlag r v).advance.regValue x = (s.setFlag r v).regValue x := by cases x <;> rfl
    rw [hset, regValue_setFlag]
    by_cases hrx : r = x
    · subst hrx
      exact .inr ⟨e, v, rfl, he, if_pos rfl⟩
    · exact .inl (if_neg hrx)

/-- A register that changes under a micro-operation that advances changes by its `SET`. -/
theorem micro_advanced_set_of_ne {m : Uop} {s t : State} (h : micro m s = .advanced t) {x : SetReg}
    (hne : t.regValue x ≠ s.regValue x) : ∃ e, m = .set x e := by
  rcases micro_advanced_regValue h x with heq | ⟨e, _, hm, -⟩
  · exact absurd heq hne
  · exact ⟨e, hm⟩

/-! ### The events and the writes of a micro-operation -/

/-- The micro-operation `m` in state `s` writes the byte `v`, its operand ORed with BL, to `a`, which is CFG_ADDR (R183,
R193). -/
def State.Sends (s : State) (m : Uop) (a : BusAddr) (v : Byte) : Prop :=
  ∃ x w bl, m = .w x ∧ evalExpr s x = .ok w ∧ s.bl = some bl ∧ s.cfgAddr = some a ∧ v = w ||| bl

/-- A micro-operation appends at most two events to the trace, its own and the completion if it aborts (R39, R192), and
a write among them is of the byte it sends. -/
theorem micro_trace {m : Uop} {s t : State} (h : micro m s = .advanced t ∨ micro m s = .aborted t) :
    ∃ es, t.trace = s.trace ++ es ∧ es.length ≤ 2 ∧ ∀ a v o, Event.write a v o ∈ es → s.Sends m a v := by
  rcases h with h | h
  · rcases micro_advanced h with ⟨x, w, bl, a, rfl, hx, hb, ha, -, rfl⟩ | ⟨us, -, rfl⟩ | ⟨-, -, rfl⟩ |
      ⟨r, e, v, -, -, rfl⟩
    · refine ⟨[.write a (w ||| bl) .ack], rfl, by simp, fun a' v o hmem => ?_⟩
      obtain ⟨rfl, rfl, -⟩ : a' = a ∧ v = w ||| bl ∧ o = .ack := by simpa using hmem
      exact ⟨x, w, bl, rfl, hx, hb, ha, rfl⟩
    · exact ⟨[.wait us], rfl, by simp⟩
    · exact ⟨[.busInit .ack], by simp⟩
    · exact ⟨[], by simp⟩
  · rcases micro_aborted h with ⟨x, w, bl, a, k, rfl, hx, hb, ha, -, rfl⟩ | ⟨k, -, -, rfl⟩
    · refine ⟨[.write a (w ||| bl) (.err k), .complete _], List.append_assoc .., by simp, fun a' v o hmem => ?_⟩
      obtain ⟨rfl, rfl, -⟩ : a' = a ∧ v = w ||| bl ∧ o = .err k := by simpa using hmem
      exact ⟨x, w, bl, rfl, hx, hb, ha, rfl⟩
    · exact ⟨[.busInit (.err k), .complete (.transportError { kind := k, upc := s.upc, byte := none })], by simp⟩

/-- A micro-operation leaves the expander's register alone, or with the byte it sends (R194). -/
theorem micro_expOut {m : Uop} {s t : State} (h : micro m s = .advanced t ∨ micro m s = .aborted t) :
    t.expOut = s.expOut ∨ ∃ a v, s.Sends m a v ∧ t.expOut = .known v := by
  rcases h with h | h
  · rcases micro_advanced h with ⟨x, w, bl, a, rfl, hx, hb, ha, -, rfl⟩ | ⟨us, -, rfl⟩ | ⟨-, -, rfl⟩ |
      ⟨r, e, v, -, -, rfl⟩
    · exact .inr ⟨a, w ||| bl, ⟨x, w, bl, rfl, hx, hb, ha, rfl⟩, rfl⟩
    · exact .inl rfl
    · exact .inl (by simp)
    · exact .inl (by simp)
  · rcases micro_aborted h with ⟨x, w, bl, a, k, rfl, hx, hb, ha, -, rfl⟩ | ⟨k, -, -, rfl⟩
    · by_cases htaken : s.nextDraw.taken
      · exact .inr ⟨a, w ||| bl, ⟨x, w, bl, rfl, hx, hb, ha, rfl⟩, by simp [htaken]⟩
      · exact .inl (by simp [htaken])
    · exact .inl (by simp)

/-! ### The moves of the block -/

/-- A byte string that is no record and is not refused by R82 has no meaning (log entry 6). -/
theorem step_malformed {s : State} {r : List Byte} {rest : List (List Byte)} {why : Reject} (hb : s.busy = false)
    (hi : s.inbox = r :: rest) (hd : decode r = .error why) (hw : why ≠ .unknownRequest) :
    step s = .refused (.malformedRecord why) := by
  cases why with
  | unknownRequest => exact absurd rfl hw
  | _ => simp [step, nextTurn, idleTurn, recordTurn, hb, hi, hd]

/-- What one step can do (R198): the moves of the block, each from where it is possible to where it leads. -/
inductive Move (s : State) : State → Prop
  /-- The micro-operation at UPC completes. -/
  | advance {m : Uop} {t : State} (busy : s.busy = true) (fetch : s.uprog[s.upc]? = some m)
      (done : micro m s = .advanced t) : Move s t
  /-- The micro-operation at UPC aborts the request (R192). -/
  | abort {m : Uop} {t : State} (busy : s.busy = true) (fetch : s.uprog[s.upc]? = some m)
      (done : micro m s = .aborted t) : Move s t
  /-- The request completes at the end of its micro-program (R191). -/
  | complete (busy : s.busy = true) (atEnd : s.upc = s.uprog.length) : Move s s.finish
  /-- Nothing is offered. -/
  | idle (busy : s.busy = false) (empty : s.inbox = []) : Move s s
  /-- A record is taken and its request refused (R182, R214). -/
  | refuse {r : List Byte} {rest : List (List Byte)} (busy : s.busy = false) (offered : s.inbox = r :: rest)
      (why : RefuseReason) : Move s (State.refuse { s with inbox := rest } why)
  /-- A record is taken and its request accepted (R182). -/
  | accept {r : List Byte} {rest : List (List Byte)} {q : Instr} (busy : s.busy = false)
      (offered : s.inbox = r :: rest) (request : decode r = .ok q) (notInit : q.reqCode ≠ some 0)
      (configured : s.phase ≠ .unconfigured) (admitted : q = .begin ∨ s.phase = .ready) :
      Move s (State.accept { s with inbox := rest } q)
  /-- An init with a zero count is taken (R102). -/
  | badInit {r : List Byte} {rest : List (List Byte)} {a : BusAddr} {c w : Byte} {z : CharSize} {f : ConfigField}
      (busy : s.busy = false) (offered : s.inbox = r :: rest) (request : decode r = .ok (.init a c w z))
      (unconfigured : s.phase = .unconfigured) (counts : configProblem c w = some f) :
      Move s ((State.emit { s with inbox := rest } (.accept (.init a c w z))).report (.configError f))
  /-- An init is taken and performed (R100). -/
  | init {r : List Byte} {rest : List (List Byte)} {a : BusAddr} {c w : Byte} {z : CharSize}
      (busy : s.busy = false) (offered : s.inbox = r :: rest) (request : decode r = .ok (.init a c w z))
      (unconfigured : s.phase = .unconfigured) (counts : configProblem c w = none) :
      Move s (((State.emit { s with inbox := rest } (.accept (.init a c w z))).configure a c w z).report .ok)

/-- A step that answers a next state is a move. -/
theorem move_of_step {s t : State} (h : step s = .next t) : Move s t := by
  rcases step_cases h with ⟨hb, m, hm, hadv | habt⟩ | ⟨hb, hu, rfl⟩ | ⟨hb, hi, rfl⟩ |
    ⟨hb, r, rest, q, hi, hd, hx⟩ | ⟨hb, r, rest, hi, -, rfl⟩
  · exact .advance hb hm hadv
  · exact .abort hb hm habt
  · exact .complete hb hu
  · exact .idle hb hi
  · rcases exec_request_next (decode_request hd) (s := { s with inbox := rest }) hb hx with
      ⟨why, rfl⟩ | ⟨rfl, h0, hp, hq⟩ | ⟨a, c, w, z, rfl, hp, ⟨f, hc, rfl⟩ | ⟨hc, rfl⟩⟩
    · exact .refuse hb hi why
    · exact .accept hb hi hd h0 hp hq
    · exact .badInit hb hi hd hp hc
    · exact .init hb hi hd hp hc
  · exact .refuse hb hi _

/-! ### What a step changes -/

/-- Settles O9: the busy turn runs the micro-operation as an instruction. -/
theorem stepExecutesTheMicroOperationAtUpc : Obligations.StepExecutesTheMicroOperationAtUpc := by
  intro s m hb hm
  rw [step_micro hb hm, exec_toInstr]

/-- The two states hold the same configuration and FUNC (R22–R26). -/
def State.SameConfig (s t : State) : Prop :=
  t.cfgAddr = s.cfgAddr ∧ t.cfgCols = s.cfgCols ∧ t.cfgRows = s.cfgRows ∧ t.cfgCharsize = s.cfgCharsize ∧
    t.func = s.func

theorem micro_advanced_sameConfig {m : Uop} {s t : State} (h : micro m s = .advanced t) : s.SameConfig t := by
  obtain ⟨-, -, -, -, -, -, -, -, -, hcfg⟩ := micro_advanced_frame h
  exact hcfg

theorem micro_aborted_sameConfig {m : Uop} {s t : State} (h : micro m s = .aborted t) : s.SameConfig t := by
  obtain ⟨-, -, -, -, -, -, -, -, -, ha, hc, hr, hz, hf, -⟩ := micro_aborted_frame h
  exact ⟨ha, hc, hr, hz, hf⟩

/-- Settles O43: of the moves only init writes the configuration, and it is possible in phase Unconfigured only. -/
theorem configurationIsNeverMutated : Obligations.ConfigurationIsNeverMutated := by
  intro s t hp h
  cases move_of_step h with
  | advance _ _ hadv => exact micro_advanced_sameConfig hadv
  | abort _ _ habt => exact micro_aborted_sameConfig habt
  | init _ _ _ hun => exact absurd hun hp
  | complete | idle | refuse | accept | badInit => exact ⟨rfl, rfl, rfl, rfl, rfl⟩

/-- Settles O44: a micro-operation changes a flag register only by its `SET`, and of the other moves only init writes
BL. -/
theorem flagRegistersChangeOnlyBySet : Obligations.FlagRegistersChangeOnlyBySet := by
  intro s t h
  cases move_of_step h with
  | advance hb hm hadv =>
    have bySet : ∀ x : SetReg, t.regValue x ≠ s.regValue x →
        s.busy = true ∧ ∃ e, s.uprog[s.upc]? = some (.set x e) := by
      intro x hne
      obtain ⟨e, rfl⟩ := micro_advanced_set_of_ne hadv hne
      exact ⟨hb, e, hm⟩
    exact ⟨bySet .ctrl, bySet .entry, fun hne => .inl (bySet .bl hne)⟩
  | abort _ _ habt =>
    obtain ⟨-, -, -, -, -, -, -, -, -, -, -, -, -, -, hc, he, hbl⟩ := micro_aborted_frame habt
    exact ⟨(absurd hc ·), (absurd he ·), (absurd hbl ·)⟩
  | @init r rest a c w z hb hi hd hun =>
    exact ⟨(absurd rfl ·), (absurd rfl ·), fun _ => .inr ⟨hb, hun, rfl, rfl, r, rest, a, c, w, z, hi, hd⟩⟩
  | complete | idle | refuse | accept | badInit => exact ⟨(absurd rfl ·), (absurd rfl ·), (absurd rfl ·)⟩

/-- Settles O45: every move appends, an abort and init two events, the others at most one. -/
theorem traceIsAppendOnly : Obligations.TraceIsAppendOnly := by
  intro s t h
  cases move_of_step h with
  | advance _ _ hadv =>
    obtain ⟨es, hes, hlen, -⟩ := micro_trace (.inl hadv)
    exact ⟨es, hes, hlen⟩
  | abort _ _ habt =>
    obtain ⟨es, hes, hlen, -⟩ := micro_trace (.inr habt)
    exact ⟨es, hes, hlen⟩
  | complete => exact ⟨[_], rfl, by simp⟩
  | idle => exact ⟨[], by simp⟩
  | refuse => exact ⟨[], by simp⟩
  | accept => exact ⟨[_], rfl, by simp⟩
  | badInit => exact ⟨[_, _], List.append_assoc .., by simp⟩
  | init => exact ⟨[_, _], List.append_assoc .., by simp⟩

/-- Settles O46: the step of a busy block inside its micro-program is a micro-operation, whose two ends are the two
cases. -/
theorem microOperationsNeverJump : Obligations.MicroOperationsNeverJump := by
  intro s t m hb hm h
  rw [step_micro hb hm] at h
  cases hr : micro m s with
  | advanced u =>
    obtain rfl : u = t := by simpa [hr, MicroOutcome.answer] using h
    obtain ⟨fb, fo, fp, fu, -⟩ := micro_advanced_frame hr
    exact ⟨fp, .inl ⟨fb.trans hb, fo, fu⟩⟩
  | aborted u =>
    obtain rfl : u = t := by simpa [hr, MicroOutcome.answer] using h
    obtain ⟨fb, fo, fp, fu, -⟩ := micro_aborted_frame hr
    exact ⟨fp, .inr ⟨fb, fo, fu⟩⟩
  | fault f => simp [hr, MicroOutcome.answer] at h

/-- Settles O47: LINK is written by the completion, for begin, and by the abort; the other moves keep it. -/
theorem onlyBeginAndAbortsWriteLink : Obligations.OnlyBeginAndAbortsWriteLink := by
  intro s t h hne
  cases move_of_step h with
  | advance _ _ hadv =>
    obtain ⟨-, -, -, -, -, hl, -⟩ := micro_advanced_frame hadv
    exact absurd hl hne
  | abort hb _ habt =>
    obtain ⟨hb', -, -, -, -, hl, hres, -⟩ := micro_aborted_frame habt
    exact .inr ⟨hl, hb, hb', hres⟩
  | complete hb hu =>
    by_cases hbegin : s.curOp = some .begin
    · exact .inl ⟨by simp [hbegin, isBegin], hb, hbegin, hu⟩
    · exact absurd (by simp [ite_isBegin, hbegin]) hne
  | idle | refuse | accept | badInit | init => exact absurd rfl hne

/-- Settles O48: PHASE is written by init, by the completion of begin and by the abort of begin; the other moves keep
it. -/
theorem phaseMovesOnlyByInitAndBegin : Obligations.PhaseMovesOnlyByInitAndBegin := by
  intro s t h hne
  cases move_of_step h with
  | advance _ _ hadv =>
    obtain ⟨-, -, -, -, hp, -⟩ := micro_advanced_frame hadv
    exact absurd hp hne
  | abort hb _ habt =>
    obtain ⟨-, -, -, -, hp, hl, -⟩ := micro_aborted_frame habt
    by_cases hbegin : s.curOp = some .begin
    · exact .inr (.inr ⟨by rw [hp, if_pos hbegin], hb, hbegin, hl⟩)
    · exact absurd (by rw [hp, if_neg hbegin]) hne
  | complete hb hu =>
    by_cases hbegin : s.curOp = some .begin
    · exact .inr (.inl ⟨by simp [hbegin, isBegin], hb, hbegin, hu, rfl⟩)
    · exact absurd (by simp [ite_isBegin, hbegin]) hne
  | @init r rest a c w z hb hi hd hun => exact .inl ⟨hun, rfl, hb, rfl, r, rest, a, c, w, z, hi, hd⟩
  | idle | refuse | accept | badInit => exact absurd rfl hne

end Sys2Proof.Machine
end

section
/-! PROOFS. The micro-programs of the requests: their operands keep the rules of R183, R184, R186 and R252, and which
registers those operands read (R79, R101, R161). -/

namespace Sys2Proof.Machine

/-! ### Well-formedness -/

/-- Every micro-operation of the list is well formed. -/
def WellFormedProg (p : List Uop) : Prop := ∀ m ∈ p, m.toInstr.wellFormed = true

theorem wellFormedProg_nil : WellFormedProg [] := List.forall_mem_nil _

@[simp] theorem wellFormedProg_cons {m : Uop} {p : List Uop} :
    WellFormedProg (m :: p) ↔ m.toInstr.wellFormed = true ∧ WellFormedProg p :=
  List.forall_mem_cons

@[simp] theorem wellFormedProg_append {p q : List Uop} :
    WellFormedProg (p ++ q) ↔ WellFormedProg p ∧ WellFormedProg q :=
  List.forall_mem_append

/-- Setting or clearing EN leaves bits 3 and 1 of a nibble's operand at 0. -/
theorem nibble_masks {b : Byte} (h : b &&& 0x0E = 0) :
    b &&& 0x0A = 0 ∧ (b ||| Config.enBit) &&& 0x0A = 0 ∧ (b &&& ~~~ Config.enBit) &&& 0x0A = 0 := by
  revert b; decide

/-- `NIBBLE(n)` with `n[3:1] = 0` (R187). -/
theorem nibbleProg_wellFormed {n : Expr} (h : n.mayBits &&& 0x0E = 0) : WellFormedProg (nibbleProg n) := by
  obtain ⟨hsetup, hhigh, hlow⟩ := nibble_masks h
  have w (x : Expr) (hx : x.mayBits &&& 0x0A = 0) : (Uop.w x).toInstr.wellFormed = true := beq_iff_eq.2 hx
  simp only [nibbleProg, wellFormedProg_cons]
  exact ⟨w _ hsetup, w _ hhigh, by decide, w _ hlow, by decide, wellFormedProg_nil⟩

/-- A byte masked to its high nibble, with the mode, has bits 3:1 at 0. -/
theorem highBits_mode (b : Byte) (m : Mode) : (b &&& 0xF0 ||| modeBits m) &&& 0x0E = 0 := by
  cases m <;> revert b <;> decide

/-- A byte transfer of any operand (R188). -/
@[simp] theorem byteProg_wellFormed (v : Expr) (m : Mode) : WellFormedProg (byteProg v m) := by
  rw [byteProg, wellFormedProg_append]
  exact ⟨nibbleProg_wellFormed (highBits_mode v.mayBits m), nibbleProg_wellFormed (highBits_mode (v.mayBits <<< 4) m)⟩

@[simp] theorem cmd_wellFormed (v : Expr) : WellFormedProg (cmd v) := byteProg_wellFormed v .command

theorem progData_wellFormed (bytes : List Byte) : WellFormedProg (progData bytes) := by
  induction bytes with
  | nil => exact wellFormedProg_nil
  | cons v rest ih => exact wellFormedProg_append.2 ⟨byteProg_wellFormed _ _, ih⟩

/-- A `SET` and then a command (R132–R136). -/
theorem setThenCmd_wellFormed {x : SetReg} {e : Expr} (v : Expr) (h : (Instr.set x e).wellFormed = true) :
    WellFormedProg (.set x e :: cmd v) :=
  wellFormedProg_cons.2 ⟨h, cmd_wellFormed v⟩

/-- A command and then the long wait (R130, R131). -/
theorem cmdThenWait_wellFormed (v : Expr) : WellFormedProg (cmd v ++ [.t Config.longCommandUs]) :=
  wellFormedProg_append.2 ⟨cmd_wellFormed v, wellFormedProg_cons.2 ⟨by decide, wellFormedProg_nil⟩⟩

theorem progBegin_wellFormed : WellFormedProg progBegin := by
  have hwake : WellFormedProg beginWake := by unfold WellFormedProg; decide
  have hforce : WellFormedProg beginForce := by unfold WellFormedProg; decide
  simp only [progBegin, wellFormedProg_append]
  exact ⟨⟨⟨⟨⟨⟨⟨hwake, hforce⟩, nibbleProg_wellFormed (by decide)⟩, cmd_wellFormed _⟩,
    setThenCmd_wellFormed _ (by decide)⟩, cmdThenWait_wellFormed _⟩, setThenCmd_wellFormed _ (by decide)⟩,
    cmdThenWait_wellFormed _⟩

/-- The micro-program of a request is well formed. -/
theorem expand_wellFormed {q : Instr} (hq : q.reqCode.isSome) : WellFormedProg (expand q) := by
  cases q with
  | init => exact wellFormedProg_nil
  | begin => exact progBegin_wellFormed
  | clear | home => exact cmdThenWait_wellFormed _
  | setDisplay on | setCursor on | setBlink on | setEntryDirection on | setAutoscroll on =>
    exact setThenCmd_wellFormed _ (by cases on <;> decide)
  | setBacklight on => exact wellFormedProg_cons.2 ⟨by cases on <;> decide, by unfold WellFormedProg; decide⟩
  | scroll | setCursorPosition => exact cmd_wellFormed _
  | defineGlyph _ p => exact wellFormedProg_append.2 ⟨cmd_wellFormed _, progData_wellFormed _⟩
  | writeChar => exact byteProg_wellFormed _ _
  | writeText bytes => exact progData_wellFormed bytes
  | w | t | b | set | pulseNibble | sendByte => cases hq

/-- Settles O52: a byte transfer is well formed whatever its operand, and the rest of each micro-program is checked
operand by operand. -/
theorem microProgramsAreWellFormed : Obligations.MicroProgramsAreWellFormed :=
  fun _ m hq hm => expand_wellFormed hq m hm

/-- Settles O16: by the cases of the geometry that R101 tells apart. -/
theorem functionFlagsFollowTheGeometry : Obligations.FunctionFlagsFollowTheGeometry := by
  intro r z
  by_cases htwo : r.toNat > 1
  · have hdots : ¬ (z = .dots5x10 ∧ r.toNat = 1) := by omega
    have hf : funcFlags r z = 0x08 := by simp only [funcFlags, if_pos htwo, if_neg hdots]; decide
    rw [hf, decide_eq_true htwo, decide_eq_false hdots]
    decide
  · by_cases hdots : z = .dots5x10 ∧ r.toNat = 1
    · have hf : funcFlags r z = 0x04 := by simp only [funcFlags, if_neg htwo, if_pos hdots]; decide
      rw [hf, decide_eq_false htwo, decide_eq_true hdots]
      decide
    · have hf : funcFlags r z = 0x00 := by simp only [funcFlags, if_neg htwo, if_neg hdots]; decide
      rw [hf, decide_eq_false htwo, decide_eq_false hdots]
      decide

/-- FUNC has its legal bits only (R26). -/
theorem legalFlag_funcFlags (r : Byte) (z : CharSize) : legalFlag .func (some (funcFlags r z)) := by
  intro x hx
  obtain rfl := Option.some.inj hx
  unfold funcFlags
  split <;> split <;> decide

/-! ### The registers the operands read -/

/-- The operand of a micro-operation, an expression over the state (R183, R186). -/
def Uop.operand : Uop → Option Expr
  | .w x => some x
  | .t _ => none
  | .b => none
  | .set _ e => some e

/-- The operand of the micro-operation reads the register `r` (R182). -/
def Uop.reads (r : RegName) (m : Uop) : Prop := ∃ x, m.operand = some x ∧ exprReads r x

@[simp] theorem Uop.reads_w {r : RegName} {x : Expr} : (Uop.w x).reads r ↔ exprReads r x := by
  simp [Uop.reads, Uop.operand]

@[simp] theorem Uop.reads_t {r : RegName} {us : Nat} : ¬ (Uop.t us).reads r := by simp [Uop.reads, Uop.operand]

@[simp] theorem Uop.reads_b {r : RegName} : ¬ Uop.b.reads r := by simp [Uop.reads, Uop.operand]

@[simp] theorem Uop.reads_set {r : RegName} {x : SetReg} {e : Expr} : (Uop.set x e).reads r ↔ exprReads r e := by
  simp [Uop.reads, Uop.operand]

/-- A micro-operation faults by its operand, or by BL or CFG_ADDR at `⊥`. -/
theorem micro_fault_operand {m : Uop} {s : State} {f : Fault} (h : micro m s = .fault f) :
    (∃ x, m.operand = some x ∧ evalExpr s x = .error f) ∨ s.bl = none ∨ s.cfgAddr = none := by
  rcases micro_fault h with ⟨x, rfl, he | ⟨hb, -⟩ | ⟨ha, -⟩⟩ | ⟨r, e, rfl, he⟩
  · exact .inl ⟨x, rfl, he⟩
  · exact .inr (.inl hb)
  · exact .inr (.inr ha)
  · exact .inl ⟨e, rfl, he⟩

/-- A micro-operation that advances has evaluated its operand. -/
theorem evalExpr_of_micro_advanced {m : Uop} {s t : State} {x : Expr} (h : micro m s = .advanced t)
    (hx : m.operand = some x) : ∃ v, evalExpr s x = .ok v := by
  rcases micro_advanced h with ⟨y, v, _, _, rfl, he, -⟩ | ⟨us, rfl, -⟩ | ⟨rfl, -⟩ | ⟨r, y, v, rfl, he, -⟩
  · obtain rfl := Option.some.inj hx
    exact ⟨v, he⟩
  · cases hx
  · cases hx
  · obtain rfl := Option.some.inj hx
    exact ⟨v, he⟩

/-- No operand of the micro-program reads the register `r`. -/
def NeverReads (r : RegName) (p : List Uop) : Prop := ∀ m ∈ p, ¬ m.reads r

theorem neverReads_nil (r : RegName) : NeverReads r [] := List.forall_mem_nil _

theorem neverReads_cons {r : RegName} {m : Uop} {p : List Uop} :
    NeverReads r (m :: p) ↔ ¬ m.reads r ∧ NeverReads r p :=
  List.forall_mem_cons

theorem neverReads_append {r : RegName} {p q : List Uop} : NeverReads r (p ++ q) ↔ NeverReads r p ∧ NeverReads r q :=
  List.forall_mem_append

/-- The writes of `NIBBLE(n)` read what `n` reads. -/
theorem nibbleProg_neverReads {r : RegName} {n : Expr} (h : ¬ exprReads r n) : NeverReads r (nibbleProg n) := by
  simp [nibbleProg, neverReads_cons, neverReads_nil, exprReads, h]

/-- The writes of `BYTE(v, m)` read what `v` reads. -/
theorem byteProg_neverReads {r : RegName} {v : Expr} (m : Mode) (h : ¬ exprReads r v) :
    NeverReads r (byteProg v m) :=
  neverReads_append.2 ⟨nibbleProg_neverReads (by simpa [highNibble, exprReads] using h),
    nibbleProg_neverReads (by simpa [lowNibble, exprReads] using h)⟩

theorem cmd_neverReads {r : RegName} {v : Expr} (h : ¬ exprReads r v) : NeverReads r (cmd v) :=
  byteProg_neverReads .command h

theorem progData_neverReads (r : RegName) (bytes : List Byte) : NeverReads r (progData bytes) := by
  induction bytes with
  | nil => exact neverReads_nil r
  | cons v rest ih => exact neverReads_append.2 ⟨byteProg_neverReads .data id, ih⟩

/-- `SET(X, e)` and then a command. -/
theorem setThenCmd_neverReads {r : RegName} {x : SetReg} {e v : Expr} (he : ¬ exprReads r e) (hv : ¬ exprReads r v) :
    NeverReads r (.set x e :: cmd v) :=
  neverReads_cons.2 ⟨by simpa using he, cmd_neverReads hv⟩

/-- A command and then the long wait. -/
theorem cmdThenWait_neverReads {r : RegName} {v : Expr} (h : ¬ exprReads r v) :
    NeverReads r (cmd v ++ [.t Config.longCommandUs]) :=
  neverReads_append.2 ⟨cmd_neverReads h, neverReads_cons.2 ⟨Uop.reads_t, neverReads_nil r⟩⟩

theorem flagUpdate_neverReads {r : RegName} {x : FlagReg} (flag : Byte) (on : Bool) (h : flagRegName x ≠ r) :
    ¬ exprReads r (flagUpdate x flag on) := by
  cases on <;> simpa [flagUpdate, exprReads] using h

/-! ### The operands of begin -/

/-- Steps 1 to 7 of begin read FUNC only (R104–R110). -/
theorem beginPrefix_neverReads {r : RegName} (hr : RegName.func ≠ r) :
    NeverReads r (beginWake ++ beginForce ++ beginCommit ++ beginFunction) := by
  have hwake : NeverReads r beginWake := by simp [beginWake, neverReads_cons, neverReads_nil, exprReads]
  have hnibble (v : Byte) : NeverReads r (nibbleProg (.lit v)) := nibbleProg_neverReads id
  have hwait (us : Nat) : NeverReads r [.t us] := neverReads_cons.2 ⟨Uop.reads_t, neverReads_nil r⟩
  simp only [beginForce, neverReads_append]
  exact ⟨⟨⟨hwake, ⟨⟨⟨⟨hnibble _, hwait _⟩, hnibble _⟩, hwait _⟩, hnibble _⟩, hwait _⟩, hnibble _⟩,
    cmd_neverReads (by simpa [exprReads, flagRegName] using hr)⟩

/-- Steps 8 and 9 of begin read CTRL only (R111, R112). -/
theorem beginControl_neverReads {r : RegName} (hr : RegName.ctrl ≠ r) : NeverReads r (beginControl ++ progClear) :=
  neverReads_append.2 ⟨setThenCmd_neverReads id (by simpa [exprReads, flagRegName] using hr),
    cmdThenWait_neverReads id⟩

/-- Steps 10 and 11 of begin read ENTRY only (R113, R114). -/
theorem beginEntry_neverReads {r : RegName} (hr : RegName.entry ≠ r) : NeverReads r (beginEntry ++ progHome) :=
  neverReads_append.2 ⟨setThenCmd_neverReads id (by simpa [exprReads, flagRegName] using hr),
    cmdThenWait_neverReads id⟩

/-- begin reads FUNC, CTRL and ENTRY only. -/
theorem progBegin_neverReads {r : RegName} (hf : RegName.func ≠ r) (hc : RegName.ctrl ≠ r) (he : RegName.entry ≠ r) :
    NeverReads r progBegin := by
  have hparts : progBegin = (beginWake ++ beginForce ++ beginCommit ++ beginFunction) ++
      (beginControl ++ progClear) ++ (beginEntry ++ progHome) := by simp [progBegin]
  rw [hparts, neverReads_append, neverReads_append]
  exact ⟨⟨beginPrefix_neverReads hf, beginControl_neverReads hc⟩, beginEntry_neverReads he⟩

/-- A micro-operation that reads a register the first `k` never read stands at `k` or later. -/
theorem le_of_take_neverReads {p : List Uop} {r : RegName} {m : Uop} {i k : Nat} (hp : NeverReads r (p.take k))
    (hm : p[i]? = some m) (hr : m.reads r) : k ≤ i := by
  by_contra hlt
  have hmem : m ∈ p.take k := List.mem_of_getElem? (i := i) (by rw [List.getElem?_take_of_lt (by omega), hm])
  exact hp m hmem hr

/-- begin reads CTRL after its `SET` of it only (R111). -/
theorem begin_reads_ctrl {m : Uop} {i : Nat} (hm : (expand .begin)[i]? = some m) (hr : m.reads .ctrl) : 38 ≤ i := by
  refine le_of_take_neverReads (k := 38) ?_ hm hr
  have htake : (expand .begin).take 38 =
      (beginWake ++ beginForce ++ beginCommit ++ beginFunction) ++ [.set .ctrl (.lit Config.displayOn)] := rfl
  rw [htake, neverReads_append]
  exact ⟨beginPrefix_neverReads (by decide), neverReads_cons.2 ⟨by simp [exprReads], neverReads_nil _⟩⟩

/-- begin reads ENTRY after its `SET` of it only (R113). -/
theorem begin_reads_entry {m : Uop} {i : Nat} (hm : (expand .begin)[i]? = some m) (hr : m.reads .entry) : 60 ≤ i := by
  refine le_of_take_neverReads (k := 60) ?_ hm hr
  have htake : (expand .begin).take 60 = (beginWake ++ beginForce ++ beginCommit ++ beginFunction) ++
      (beginControl ++ progClear) ++ [.set .entry (.lit Config.entryLeft)] := rfl
  rw [htake, neverReads_append, neverReads_append]
  exact ⟨⟨beginPrefix_neverReads (by decide), beginControl_neverReads (by decide)⟩,
    neverReads_cons.2 ⟨by simp [exprReads], neverReads_nil _⟩⟩

/-! ### The operands of setCursorPosition -/

/-- Of the requests only setCursorPosition reads CFG_ROWS (R161). -/
theorem expand_neverReads_cfgRows {q : Instr} (hq : q.reqCode.isSome)
    (hne : ∀ col row, q ≠ .setCursorPosition col row) : NeverReads .cfgRows (expand q) := by
  cases q with
  | init => exact neverReads_nil _
  | begin => exact progBegin_neverReads (by decide) (by decide) (by decide)
  | clear | home => exact cmdThenWait_neverReads id
  | setDisplay on | setCursor on | setBlink on | setEntryDirection on | setAutoscroll on =>
    exact setThenCmd_neverReads (flagUpdate_neverReads _ on (by decide)) (by simp [exprReads, flagRegName])
  | setBacklight on =>
    refine neverReads_cons.2 ⟨?_, neverReads_cons.2 ⟨by simp [exprReads], neverReads_nil _⟩⟩
    cases on <;> simp [backlightUpdate, exprReads]
  | scroll => exact cmd_neverReads id
  | setCursorPosition col row => exact absurd rfl (hne col row)
  | defineGlyph _ p => exact neverReads_append.2 ⟨cmd_neverReads id, progData_neverReads _ _⟩
  | writeChar => exact byteProg_neverReads .data id
  | writeText bytes => exact progData_neverReads _ bytes
  | w | t | b | set | pulseNibble | sendByte => cases hq

/-- Every operand of `NIBBLE(n)` evaluates if `n` does. -/
theorem nibbleProg_operand_ok {s : State} {n x : Expr} {w : Byte} {m : Uop} (hn : evalExpr s n = .ok w)
    (hm : m ∈ nibbleProg n) (hx : m.operand = some x) : ∃ v, evalExpr s x = .ok v := by
  simp only [nibbleProg, List.mem_cons, List.not_mem_nil, or_false] at hm
  rcases hm with rfl | rfl | rfl | rfl | rfl <;> cases hx <;> simp [evalExpr, hn]

/-- Every operand of `BYTE(v, m)` evaluates if `v` does. -/
theorem byteProg_operand_ok {s : State} {v x : Expr} {w : Byte} {mode : Mode} {m : Uop} (hv : evalExpr s v = .ok w)
    (hm : m ∈ byteProg v mode) (hx : m.operand = some x) : ∃ u, evalExpr s x = .ok u := by
  rcases List.mem_append.1 hm with hm | hm
  · exact nibbleProg_operand_ok (w := w &&& 0xF0 ||| modeBits mode)
      (by simp [highNibble, evalExpr, hv]) hm hx
  · exact nibbleProg_operand_ok (w := w <<< 4 &&& 0xF0 ||| modeBits mode)
      (by simp [lowNibble, evalExpr, hv]) hm hx

/-- `ddram_cmd(col, row)` evaluates exactly where the clamped row is in the table (R161). -/
theorem evalExpr_ddramCmd_ok_iff {s : State} {rows : Byte} (col row : Byte) (h : s.cfgRows = some rows) :
    (∃ v, evalExpr s (.ddramCmd col row) = .ok v) ↔ (Config.rowOffset (clampRow rows row)).isSome := by
  simp only [evalExpr, h, need, ddramCmd]
  split <;> simp_all

end Sys2Proof.Machine
end

section
/-! PROOFS. The invariant of the block: it holds at reset and every move keeps it; what it says of the step's operands,
so that no step reads a register holding `⊥` (R20, R26–R33, R72, R115, R116, R241). -/

namespace Sys2Proof.Machine

/-! ### Reset -/

/-- Settles O39: reset is a literal, read element by element. -/
theorem resetLeavesEveryElement : Obligations.ResetLeavesEveryElement :=
  ⟨rfl, rfl, rfl, rfl, rfl, rfl, rfl, rfl, rfl, rfl, rfl, rfl, rfl, rfl, rfl, rfl, rfl, rfl, rfl, rfl, rfl⟩

/-- Settles O40: nothing is configured, written or running at reset. -/
theorem resetMeetsTheInvariant : Obligations.ResetMeetsTheInvariant where
  blank _ := ⟨rfl, rfl, rfl, rfl, rfl, rfl, rfl, rfl, rfl⟩
  configured h := absurd rfl h
  begun h := by cases h
  ctrlBits _ h := by cases h
  entryBits _ h := by cases h
  idle _ := rfl
  running h := by cases h
  pc := Nat.le_refl 0
  beginSets h := by cases h
  position _ _ _ h := by cases h
  writes _ _ _ h := by cases h
  expOut _ h := by cases h

/-! ### What the invariant says of a busy block -/

section Busy
variable {s t : State} {m : Uop}

theorem State.Inv.phase_of_busy (h : s.Inv) (hb : s.busy = true) : s.phase ≠ .unconfigured := fun hp => by
  have hidle := (h.blank hp).idle
  rw [hb] at hidle
  cases hidle

theorem State.Inv.configured_of_busy (h : s.Inv) (hb : s.busy = true) : s.Configured :=
  h.configured (h.phase_of_busy hb)

theorem legalFlag_bl_iff {v : Byte} : legalFlag .bl (some v) ↔ v = 0x08 ∨ v = 0x00 := by
  simp only [legalFlag, Option.some.injEq, forall_eq', FlagReg.legalBits]
  revert v
  decide

theorem State.Configured.legal_bl (h : s.Configured) : legalFlag .bl s.bl := by
  rcases h.bl with hb | hb <;> rw [hb, legalFlag_bl_iff] <;> simp

theorem State.Configured.legal_func (h : s.Configured) : legalFlag .func s.func := by
  obtain ⟨r, z, -, -, -, hf⟩ := h.geometry
  rw [hf]
  exact legalFlag_funcFlags r z

/-- An operand's value has only the bits `mayBits` allows (R26–R29). -/
theorem State.Inv.operand_mayBits (h : s.Inv) (hb : s.busy = true) {x : Expr} {v : Byte}
    (hx : evalExpr s x = .ok v) : v &&& ~~~ x.mayBits = 0 :=
  have hc := h.configured_of_busy hb
  evalExpr_mayBits hc.legal_func h.ctrlBits h.entryBits hc.legal_bl hx

theorem State.Inv.wellFormed (h : s.Inv) (hb : s.busy = true) (hm : s.uprog[s.upc]? = some m) :
    m.toInstr.wellFormed = true := by
  obtain ⟨q, -, hreq, -, hprog, -⟩ := (h.running hb).admitted
  exact expand_wellFormed hreq m (hprog ▸ List.mem_of_getElem? hm)

/-- A byte that `W` sends goes to CFG_ADDR with RW = 0 (R72, R183). -/
theorem State.Inv.sends (h : s.Inv) (hb : s.busy = true) (hm : s.uprog[s.upc]? = some m) {a : BusAddr} {v : Byte}
    (hs : s.Sends m a v) : s.cfgAddr = some a ∧ v.getLsbD 1 = false := by
  obtain ⟨x, w, bl, rfl, hx, hbl, ha, rfl⟩ := hs
  refine ⟨ha, ?_⟩
  have hmask : x.mayBits &&& 0x0A = 0 := beq_iff_eq.1 (h.wellFormed hb hm)
  have hw : w.getLsbD 1 = false := by
    by_contra hw
    have hmay := within_iff.1 (h.operand_mayBits hb hx) 1 (by simpa using hw)
    have hbit : (x.mayBits &&& 0x0A).getLsbD 1 = false := by rw [hmask]; rfl
    rw [BitVec.getLsbD_and, hmay] at hbit
    exact absurd hbit (by decide)
  have hblBit : bl.getLsbD 1 = false := by
    rcases legalFlag_bl_iff.1 (hbl ▸ (h.configured_of_busy hb).legal_bl) with rfl | rfl <;> rfl
  rw [BitVec.getLsbD_or, hw, hblBit]
  rfl

/-- The value of a `SET` is legal for its register (R27–R29). -/
theorem State.Inv.set_legal (h : s.Inv) (hb : s.busy = true) {x : SetReg} {e : Expr} {v : Byte}
    (hm : s.uprog[s.upc]? = some (.set x e)) (he : evalExpr s e = .ok v) : legalFlag x.toFlagReg (some v) := by
  intro w hw
  obtain rfl := Option.some.inj hw
  have hmask : e.mayBits &&& ~~~ x.toFlagReg.legalBits = 0 := beq_iff_eq.1 (h.wellFormed hb hm)
  exact within_iff.2 fun i hi => within_iff.1 hmask i (within_iff.1 (h.operand_mayBits hb he) i hi)

/-! ### The moves of a busy block keep the invariant -/

/-- A flag register stays legal. -/
theorem State.Inv.advance_legal (h : s.Inv) (hb : s.busy = true) (hm : s.uprog[s.upc]? = some m)
    (hadv : micro m s = .advanced t) (x : SetReg) (hx : legalFlag x.toFlagReg (s.regValue x)) :
    legalFlag x.toFlagReg (t.regValue x) := by
  rcases micro_advanced_regValue hadv x with heq | ⟨e, v, rfl, he, hv⟩
  · exact heq ▸ hx
  · exact hv ▸ h.set_legal hb hm he

/-- A register that holds a value keeps one. -/
theorem micro_advanced_isSome (hadv : micro m s = .advanced t) (x : SetReg) (hx : (s.regValue x).isSome) :
    (t.regValue x).isSome := by
  rcases micro_advanced_regValue hadv x with heq | ⟨e, v, -, -, hv⟩
  · exact heq ▸ hx
  · rw [hv]; rfl

/-- BL stays 0x08 or 0x00 (R29). -/
theorem State.Inv.advance_bl (h : s.Inv) (hb : s.busy = true) (hm : s.uprog[s.upc]? = some m)
    (hadv : micro m s = .advanced t) : t.bl = some 0x08 ∨ t.bl = some 0x00 := by
  have hconf := h.configured_of_busy hb
  have hsome : (s.regValue .bl).isSome := by rcases hconf.bl with e | e <;> simp [State.regValue, e]
  obtain ⟨v, hv⟩ : ∃ v, t.bl = some v := Option.isSome_iff_exists.1 (micro_advanced_isSome hadv .bl hsome)
  have hlegal : legalFlag .bl (some v) := hv ▸ h.advance_legal hb hm hadv .bl hconf.legal_bl
  rw [hv]
  exact (legalFlag_bl_iff.1 hlegal).imp (congrArg some) (congrArg some)

theorem micro_set_isSome {x : SetReg} {e : Expr} (hadv : micro (.set x e) s = .advanced t) :
    (t.regValue x).isSome := by
  obtain ⟨v, he⟩ := evalExpr_of_micro_advanced hadv rfl
  rw [micro, microSet_ok he] at hadv
  obtain rfl := MicroOutcome.advanced.inj hadv
  cases x <;> rfl

/-- Past a `SET` of `x` in the micro-program, `x` holds a value, if it does so far. -/
theorem micro_advanced_pastSet {x : SetReg} {e : Expr} {k : Nat} (hset : s.uprog[k]? = some (.set x e))
    (hm : s.uprog[s.upc]? = some m) (hadv : micro m s = .advanced t) (hx : k + 1 ≤ s.upc → (s.regValue x).isSome)
    (hk : k + 1 ≤ s.upc + 1) : (t.regValue x).isSome := by
  rcases Nat.lt_or_eq_of_le (Nat.le_of_succ_le_succ hk) with hlt | rfl
  · exact micro_advanced_isSome hadv x (hx hlt)
  · obtain rfl := Option.some.inj (hset.symm.trans hm)
    exact micro_set_isSome hadv

/-- After the first write of a setCursorPosition the clamped row is known to be in the table (R161). -/
theorem rowOffset_of_micro_advanced {col row rows : Byte} (hr : s.cfgRows = some rows)
    (hm : (progSetCursorPosition col row)[0]? = some m) (hadv : micro m s = .advanced t) :
    (Config.rowOffset (clampRow rows row)).isSome := by
  obtain rfl := Option.some.inj hm
  obtain ⟨v, hv⟩ := evalExpr_of_micro_advanced hadv rfl
  rw [← evalExpr_ddramCmd_ok_iff col row hr]
  cases he : evalExpr s (.ddramCmd col row) with
  | ok w => exact ⟨w, rfl⟩
  | error f => cases hv.symm.trans (evalExpr_highNibble_error .command he)

theorem State.Configured.of_sameConfig (h : s.Configured) (hc : s.SameConfig t)
    (hbl : t.bl = some 0x08 ∨ t.bl = some 0x00) : t.Configured := by
  obtain ⟨ha, hcols, hrows, hz, hf⟩ := hc
  exact ⟨ha ▸ h.cfgAddr, hcols ▸ h.cfgCols, by rw [hrows, hz, hf]; exact h.geometry, hbl⟩

/-- The writes and the expander's register after a micro-operation (R72). -/
theorem State.Inv.micro_bus (h : s.Inv) (hb : s.busy = true) (hm : s.uprog[s.upc]? = some m)
    (hend : micro m s = .advanced t ∨ micro m s = .aborted t) (ha : t.cfgAddr = s.cfgAddr) :
    (∀ a v o, Event.write a v o ∈ t.trace → t.cfgAddr = some a ∧ v.getLsbD 1 = false) ∧
      ∀ v, t.expOut = .known v → v.getLsbD 1 = false := by
  constructor
  · intro a v o hmem
    obtain ⟨es, hes, -, hsent⟩ := micro_trace hend
    rw [ha]
    rcases List.mem_append.1 (hes ▸ hmem) with hold | hnew
    · exact h.writes a v o hold
    · exact h.sends hb hm (hsent a v o hnew)
  · intro v hv
    rcases micro_expOut hend with heq | ⟨a, w, hsent, hw⟩
    · exact h.expOut v (heq.symm.trans hv)
    · obtain rfl := ExpOut.known.inj (hw.symm.trans hv)
      exact (h.sends hb hm hsent).2

theorem State.Inv.advance (h : s.Inv) (hb : s.busy = true) (hm : s.uprog[s.upc]? = some m)
    (hadv : micro m s = .advanced t) : t.Inv := by
  obtain ⟨fb, fo, fp, fu, fph, fl, -, -, -, hcfg⟩ := micro_advanced_frame hadv
  have hphase := h.phase_of_busy hb
  have hconf := h.configured_of_busy hb
  have hlt := (List.getElem?_eq_some_iff.1 hm).1
  obtain ⟨q, hq, hreq, h0, hprog, hadm⟩ := (h.running hb).admitted
  obtain ⟨hwrites, hout⟩ := h.micro_bus hb hm (.inl hadv) hcfg.1
  constructor
  case blank => exact fun hun => absurd (fph.symm.trans hun) hphase
  case configured => exact fun _ => hconf.of_sameConfig hcfg (h.advance_bl hb hm hadv)
  case begun =>
    intro hready
    obtain ⟨hc, he, hl⟩ := h.begun (fph.symm.trans hready)
    exact ⟨micro_advanced_isSome hadv .ctrl hc, micro_advanced_isSome hadv .entry he, fl.symm ▸ hl⟩
  case ctrlBits => exact h.advance_legal hb hm hadv .ctrl h.ctrlBits
  case entryBits => exact h.advance_legal hb hm hadv .entry h.entryBits
  case idle => exact fun hidle => absurd (fb.symm.trans hidle) (by simp [hb])
  case running => exact fun _ => ⟨q, fo.trans hq, hreq, h0, fp.trans hprog, fph.symm ▸ hadm⟩
  case pc => rw [fu, fp]; exact hlt
  case beginSets =>
    intro hbegin
    obtain ⟨hc, he⟩ := h.beginSets (fo.symm.trans hbegin)
    obtain rfl : q = .begin := Option.some.inj (hq.symm.trans (fo.symm.trans hbegin))
    rw [fu]
    exact ⟨micro_advanced_pastSet (x := .ctrl) (k := 37) (by rw [hprog]; rfl) hm hadv hc,
      micro_advanced_pastSet (x := .entry) (k := 59) (by rw [hprog]; rfl) hm hadv he⟩
  case position =>
    intro col row rows hop hrows _
    have hrows' := hcfg.2.2.1.symm.trans hrows
    rcases Nat.eq_zero_or_pos s.upc with hzero | hpos
    · obtain rfl := Option.some.inj (hq.symm.trans (fo.symm.trans hop))
      exact rowOffset_of_micro_advanced hrows' (by rw [← hm, hprog, hzero]; rfl) hadv
    · exact h.position col row rows (fo.symm.trans hop) hrows' hpos
  case writes => exact hwrites
  case expOut => exact hout

theorem State.Inv.abort (h : s.Inv) (hb : s.busy = true) (hm : s.uprog[s.upc]? = some m)
    (habt : micro m s = .aborted t) : t.Inv := by
  obtain ⟨fb, fo, fp, fu, fph, fl, -, -, -, fa, fcols, frows, fz, ff, fc, fe, fbl⟩ := micro_aborted_frame habt
  have hphase := h.phase_of_busy hb
  have hconf := h.configured_of_busy hb
  obtain ⟨hwrites, hout⟩ := h.micro_bus hb hm (.inr habt) fa
  constructor
  case blank =>
    intro hun
    rw [fph] at hun
    split at hun
    · cases hun
    · exact absurd hun hphase
  case configured => exact fun _ => hconf.of_sameConfig ⟨fa, fcols, frows, fz, ff⟩ (fbl ▸ hconf.bl)
  case begun =>
    intro hready
    rw [fph] at hready
    split at hready
    · cases hready
    · obtain ⟨hc, he, -⟩ := h.begun hready
      exact ⟨fc ▸ hc, fe ▸ he, by rw [fl]; decide⟩
  case ctrlBits => exact fc ▸ h.ctrlBits
  case entryBits => exact fe ▸ h.entryBits
  case idle => exact fun _ => fo
  case running => exact fun hbusy => by cases fb.symm.trans hbusy
  case pc => rw [fu, fp]; exact h.pc
  case beginSets => exact fun hop => by cases fo.symm.trans hop
  case position => exact fun _ _ _ hop => by cases fo.symm.trans hop
  case writes => exact hwrites
  case expOut => exact hout

/-- At the end of begin CTRL and ENTRY hold values: both of its `SET`s are passed (R111, R113, R115). -/
theorem State.Inv.begin_end (h : s.Inv) (hb : s.busy = true) (hu : s.upc = s.uprog.length)
    (hop : s.curOp = some .begin) : s.ctrl.isSome ∧ s.entry.isSome := by
  obtain ⟨q, hq, -, -, hprog, -⟩ := (h.running hb).admitted
  obtain rfl := Option.some.inj (hq.symm.trans hop)
  have hlen : s.upc = 81 := by rw [hu, hprog]; rfl
  obtain ⟨hc, he⟩ := h.beginSets hop
  exact ⟨hc (by omega), he (by omega)⟩

/-- A trace that gains the end of a request has no more writes. -/
theorem write_mem_append_complete {tr : List Event} {r : Result} {a : BusAddr} {v : Byte} {o : Answer}
    (h : Event.write a v o ∈ tr ++ [.complete r]) : Event.write a v o ∈ tr := by
  simpa using h

theorem State.Inv.complete (h : s.Inv) (hb : s.busy = true) (hu : s.upc = s.uprog.length) : s.finish.Inv := by
  have hphase := h.phase_of_busy hb
  constructor
  case blank =>
    intro hun
    rw [State.finish_phase] at hun
    split at hun
    · cases hun
    · exact absurd hun hphase
  case configured =>
    have hconf := h.configured_of_busy hb
    exact fun _ => hconf.of_sameConfig ⟨rfl, rfl, rfl, rfl, rfl⟩ hconf.bl
  case begun =>
    intro hready
    by_cases hop : s.curOp = some .begin
    · obtain ⟨hc, he⟩ := h.begin_end hb hu hop
      exact ⟨hc, he, by simp [ite_isBegin, hop]⟩
    · rw [State.finish_phase, ite_isBegin, if_neg hop] at hready
      obtain ⟨hc, he, hl⟩ := h.begun hready
      exact ⟨hc, he, by rwa [State.finish_link, ite_isBegin, if_neg hop]⟩
  case ctrlBits => exact h.ctrlBits
  case entryBits => exact h.entryBits
  case idle => exact fun _ => rfl
  case running => intro hbusy; cases hbusy
  case pc => exact h.pc
  case beginSets => intro hop; cases hop
  case position => intro _ _ _ hop; cases hop
  case writes => exact fun a v o hmem => h.writes a v o (write_mem_append_complete hmem)
  case expOut => exact h.expOut

end Busy

/-! ### The moves of an idle block keep the invariant -/

section Idle
variable {s : State}

theorem State.Blank.of_eq {t : State} (h : s.Blank) (hc : s.SameConfig t) (hctrl : t.ctrl = s.ctrl)
    (hentry : t.entry = s.entry) (hbl : t.bl = s.bl) (hbusy : t.busy = s.busy) : t.Blank := by
  obtain ⟨ha, hcols, hrows, hz, hf⟩ := hc
  exact ⟨ha.trans h.cfgAddr, hcols.trans h.cfgCols, hrows.trans h.cfgRows, hz.trans h.cfgCharsize, hf.trans h.func,
    hctrl.trans h.ctrl, hentry.trans h.entry, hbl.trans h.bl, hbusy.trans h.idle⟩

/-- The invariant does not speak of the inbox, the result or the refusal mark, and of the trace only of its writes. -/
theorem State.Inv.of_unread (h : s.Inv) (i : List (List Byte)) (r : Option Result) (f : Option RefuseReason)
    (tr : List Event) (htr : ∀ a v o, Event.write a v o ∈ tr → Event.write a v o ∈ s.trace) :
    State.Inv { s with inbox := i, result := r, refusal := f, trace := tr } where
  blank hp := (h.blank hp).of_eq ⟨rfl, rfl, rfl, rfl, rfl⟩ rfl rfl rfl rfl
  configured hp := (h.configured hp).of_sameConfig ⟨rfl, rfl, rfl, rfl, rfl⟩ (h.configured hp).bl
  begun := h.begun
  ctrlBits := h.ctrlBits
  entryBits := h.entryBits
  idle := h.idle
  running hb := ⟨(h.running hb).admitted⟩
  pc := h.pc
  beginSets := h.beginSets
  position := h.position
  writes a v o hmem := h.writes a v o (htr a v o hmem)
  expOut := h.expOut

theorem State.Inv.take (h : s.Inv) (rest : List (List Byte)) : State.Inv { s with inbox := rest } :=
  h.of_unread rest s.result s.refusal s.trace fun _ _ _ => id

theorem State.Inv.refuse (h : s.Inv) (why : RefuseReason) : (s.refuse why).Inv :=
  h.of_unread s.inbox s.result (s.refuse why).refusal s.trace fun _ _ _ => id

theorem State.Inv.badInit (h : s.Inv) (q : Instr) (f : ConfigField) :
    ((s.emit (.accept q)).report (.configError f)).Inv :=
  h.of_unread s.inbox (some (.configError f)) s.refusal
    (s.trace ++ [Event.accept q] ++ [Event.complete (.configError f)]) fun _ _ _ hmem => by simpa using hmem

theorem State.Inv.accept (h : s.Inv) {q : Instr} (hreq : q.reqCode.isSome) (h0 : q.reqCode ≠ some 0)
    (hphase : s.phase ≠ .unconfigured) (hadm : q = .begin ∨ s.phase = .ready) : (s.accept q).Inv where
  blank hun := absurd hun hphase
  configured _ := (h.configured hphase).of_sameConfig ⟨rfl, rfl, rfl, rfl, rfl⟩ (h.configured hphase).bl
  begun := h.begun
  ctrlBits := h.ctrlBits
  entryBits := h.entryBits
  idle hidle := by cases hidle
  running _ := ⟨⟨q, rfl, hreq, h0, rfl, hadm⟩⟩
  pc := Nat.zero_le _
  beginSets _ := ⟨fun hu => absurd hu (by simp), fun hu => absurd hu (by simp)⟩
  position _ _ _ _ _ hu := absurd hu (Nat.lt_irrefl 0)
  writes a v o hmem := h.writes a v o (by simpa using hmem)
  expOut := h.expOut

/-- Before init nothing has been written to the bus: there is no address yet. -/
theorem State.Inv.not_write_of_unconfigured (h : s.Inv) (hun : s.phase = .unconfigured) {a : BusAddr} {v : Byte}
    {o : Answer} : Event.write a v o ∉ s.trace := by
  intro hmem
  have ha := (h.writes a v o hmem).1
  rw [(h.blank hun).cfgAddr] at ha
  cases ha

theorem configProblem_eq_none {c w : Byte} (h : configProblem c w = none) : c ≠ 0 ∧ w ≠ 0 := by
  unfold configProblem at h
  split at h
  · cases h
  · split at h
    · cases h
    · exact ⟨‹_›, ‹_›⟩

theorem State.Inv.init (h : s.Inv) (hb : s.busy = false) (hun : s.phase = .unconfigured) (q : Instr) (a : BusAddr)
    {c w : Byte} (z : CharSize) (hc : configProblem c w = none) :
    (((s.emit (.accept q)).configure a c w z).report .ok).Inv where
  blank hp := by cases hp
  configured _ :=
    have ⟨hcols, hrows⟩ := configProblem_eq_none hc
    ⟨rfl, ⟨c, rfl, hcols⟩, ⟨w, z, rfl, hrows, rfl, rfl⟩, .inl rfl⟩
  begun hp := by cases hp
  ctrlBits := h.ctrlBits
  entryBits := h.entryBits
  idle := h.idle
  running hbusy := by cases hb.symm.trans hbusy
  pc := h.pc
  beginSets := h.beginSets
  position _ _ _ hop := by cases (h.idle hb).symm.trans hop
  writes a' v o hmem := absurd (by simpa using hmem) (h.not_write_of_unconfigured hun (a := a') (v := v) (o := o))
  expOut := h.expOut

end Idle

/-- Settles O41: each of the eight moves keeps the invariant. -/
theorem stepKeepsTheInvariant : Obligations.StepKeepsTheInvariant := by
  intro s t h hstep
  cases move_of_step hstep with
  | advance hb hm hadv => exact h.advance hb hm hadv
  | abort hb hm habt => exact h.abort hb hm habt
  | complete hb hu => exact h.complete hb hu
  | idle => exact h
  | refuse _ _ why => exact (h.take _).refuse why
  | accept _ _ hd h0 hphase hadm => exact (h.take _).accept (decode_request hd) h0 hphase hadm
  | @badInit _ rest a c w z f => exact (h.take rest).badInit (.init a c w z) f
  | @init _ rest a c w z hb _ _ hun hc => exact (h.take rest).init hb hun (.init a c w z) a z hc

/-! ### No step reads a register that holds `⊥` -/

/-- Where a step's fault comes from: a micro-operation, or UPC past the end. -/
theorem step_fault {s : State} {f : Fault} (h : step s = .fault f) :
    s.busy = true ∧ ((∃ m, s.uprog[s.upc]? = some m ∧ micro m s = .fault f) ∨ s.uprog.length < s.upc) := by
  by_cases hb : s.busy = true
  · refine ⟨hb, ?_⟩
    rcases Nat.lt_trichotomy s.upc s.uprog.length with hlt | heq | hgt
    · have hm := List.getElem?_eq_getElem hlt
      rw [step_micro hb hm] at h
      refine .inl ⟨_, hm, ?_⟩
      cases hr : micro s.uprog[s.upc] s <;> simp_all [MicroOutcome.answer]
    · simp [step_finish hb heq] at h
    · exact .inr hgt
  · have hb : s.busy = false := by simpa using hb
    exfalso
    cases hi : s.inbox with
    | nil => simp [step_idle hb hi] at h
    | cons r rest =>
      cases hd : decode r with
      | ok q =>
        rw [step_record hb hi hd] at h
        rcases exec_request_idle (decode_request hd) (s := { s with inbox := rest }) hb with
          ⟨_, hx⟩ | ⟨hx, -⟩ | ⟨_, _, _, _, -, -, ⟨_, -, hx⟩ | ⟨-, hx⟩⟩ <;> cases hx.symm.trans h
      | error why =>
        by_cases hw : why = .unknownRequest
        · subst hw
          cases (step_unknown hb hi hd).symm.trans h
        · cases (step_malformed hb hi hd hw).symm.trans h

section Reads
variable {s : State} {m : Uop}

/-- The registers that init writes hold values once it has (R100). -/
theorem State.Configured.written (h : s.Configured) {r : RegName} (hc : r ≠ .ctrl) (he : r ≠ .entry) :
    ¬ s.unwritten r := by
  obtain ⟨c, hcols, -⟩ := h.cfgCols
  obtain ⟨w, z, hrows, -, hz, hf⟩ := h.geometry
  have ha := h.cfgAddr
  have hbl := h.bl
  intro hu
  cases r <;> simp_all [State.unwritten]

/-- CTRL holds a value where an operand of the running request reads it: in phase Ready it does, and before it only
begin runs, which sets CTRL before it reads it (R111). -/
theorem State.Inv.ctrl_of_reads (h : s.Inv) (hb : s.busy = true) (hm : s.uprog[s.upc]? = some m)
    (hr : m.reads .ctrl) : s.ctrl.isSome := by
  obtain ⟨q, hq, -, -, hprog, rfl | hready⟩ := (h.running hb).admitted
  · exact (h.beginSets hq).1 (begin_reads_ctrl (hprog ▸ hm) hr)
  · exact (h.begun hready).1

/-- The same for ENTRY (R113). -/
theorem State.Inv.entry_of_reads (h : s.Inv) (hb : s.busy = true) (hm : s.uprog[s.upc]? = some m)
    (hr : m.reads .entry) : s.entry.isSome := by
  obtain ⟨q, hq, -, -, hprog, rfl | hready⟩ := (h.running hb).admitted
  · exact (h.beginSets hq).2 (begin_reads_entry (hprog ▸ hm) hr)
  · exact (h.begun hready).2.1

/-- Whatever an operand of the running request reads holds a value (R20). -/
theorem State.Inv.written (h : s.Inv) (hb : s.busy = true) (hm : s.uprog[s.upc]? = some m) {r : RegName}
    (hr : m.reads r) : ¬ s.unwritten r := by
  by_cases hc : r = .ctrl
  · subst hc
    exact Option.isSome_iff_ne_none.1 (h.ctrl_of_reads hb hm hr)
  · by_cases he : r = .entry
    · subst he
      exact Option.isSome_iff_ne_none.1 (h.entry_of_reads hb hm hr)
    · exact (h.configured_of_busy hb).written hc he

/-- The row table is left only by the first write of a setCursorPosition (R161): no other request reads CFG_ROWS, and
past that write the clamped row is known to be in the table. -/
theorem State.Inv.rowOffsetOutOfTable (h : s.Inv) (hb : s.busy = true) (hm : s.uprog[s.upc]? = some m) {x : Expr}
    (hx : m.operand = some x) (he : evalExpr s x = .error .rowOffsetOutOfTable) (hr : exprReads .cfgRows x) :
    s.upc = 0 ∧ ∃ col row, s.curOp = some (.setCursorPosition col row) := by
  obtain ⟨q, hq, hreq, -, hprog, -⟩ := (h.running hb).admitted
  have hmem : m ∈ expand q := hprog ▸ List.mem_of_getElem? hm
  obtain ⟨col, row, rfl⟩ : ∃ col row, q = .setCursorPosition col row := by
    by_contra hne
    exact expand_neverReads_cfgRows hreq (fun col row hcr => hne ⟨col, row, hcr⟩) m hmem ⟨x, hx, hr⟩
  refine ⟨Nat.eq_zero_of_not_pos fun hpos => ?_, col, row, hq⟩
  obtain ⟨rows, _, hrows, -⟩ := (h.configured_of_busy hb).geometry
  obtain ⟨v, hv⟩ := (evalExpr_ddramCmd_ok_iff col row hrows).2 (h.position col row rows hq hrows hpos)
  obtain ⟨w, hw⟩ := byteProg_operand_ok hv hmem hx
  cases hw.symm.trans he

end Reads

/-- Settles O42: a fault is a micro-operation's, from its operand; whatever that reads holds a value, so it is the row
table's. -/
theorem onlyTheRowTableFaults : Obligations.OnlyTheRowTableFaults := by
  intro s f h hf
  obtain ⟨hb, ⟨m, hm, hmf⟩ | hpast⟩ := step_fault hf
  · have hconf := h.configured_of_busy hb
    rcases micro_fault_operand hmf with ⟨x, hx, he⟩ | hbl | ha
    · rcases operandFault_of_evalExpr_error he with ⟨rfl, hr⟩ | ⟨r, -, hr, hu⟩
      · exact ⟨rfl, h.rowOffsetOutOfTable hb hm hx he hr⟩
      · exact absurd hu (h.written hb hm ⟨x, hx, hr⟩)
    · exact absurd hbl (hconf.written (r := .bl) (by decide) (by decide))
    · exact absurd ha (hconf.written (r := .cfgAddr) (by decide) (by decide))
  · exact absurd h.pc (by omega)

end Sys2Proof.Machine
end

section
/-! PROOFS. What no step reads: EXP_OUT, LINK, RESULT, TRACE and the refusal mark (R34, R37–R39). Each operation of the
block commutes with forgetting them. -/

namespace Sys2Proof.Machine

/-- The end of a micro-operation with what no step reads forgotten. -/
def MicroOutcome.unobserved : MicroOutcome → MicroOutcome
  | .advanced s => .advanced s.unobserved
  | .aborted s => .aborted s.unobserved
  | .fault f => .fault f

theorem unobservedOutcome_answer (o : MicroOutcome) : unobservedOutcome o.answer = o.unobserved.answer := by
  cases o <;> rfl

variable (s : State)

/-! ### The operations -/

theorem unobserved_busy : s.unobserved.busy = s.busy := rfl

theorem unobserved_phase : s.unobserved.phase = s.phase := rfl

theorem unobserved_bl : s.unobserved.bl = s.bl := rfl

theorem unobserved_cfgAddr : s.unobserved.cfgAddr = s.cfgAddr := rfl

theorem unobserved_nextDraw : s.unobserved.nextDraw = s.nextDraw := nextDraw_congr rfl rfl

theorem unobserved_afterDraw : s.unobserved.afterDraw = s.afterDraw.unobserved := by
  cases hs : s.script <;> simp [State.afterDraw, State.unobserved, hs]

theorem unobserved_evalExpr (x : Expr) : evalExpr s.unobserved x = evalExpr s x :=
  evalExpr_congr (s := s) (t := s.unobserved) rfl rfl rfl rfl rfl x

theorem unobserved_hold (q : Instr) : (s.unobserved.hold q).unobserved = (s.hold q).unobserved := by
  cases hq : encode q <;> simp [State.hold, State.unobserved, hq]

theorem unobserved_busWrite (a : BusAddr) (v : Byte) :
    (busWrite a v s.unobserved).unobserved = (busWrite a v s).unobserved := by
  rcases answer_cases s with hd | ⟨k, hd⟩
  · rw [busWrite_ack a v hd, busWrite_ack a v (unobserved_nextDraw s ▸ hd), unobserved_afterDraw]
    rfl
  · rw [busWrite_err a v hd, busWrite_err a v (unobserved_nextDraw s ▸ hd), unobserved_afterDraw]
    rfl

theorem unobserved_busInit : (busInit s.unobserved).unobserved = (busInit s).unobserved := by
  rcases answer_cases s with hd | ⟨k, hd⟩
  · rw [busInit_ack hd, busInit_ack (unobserved_nextDraw s ▸ hd), unobserved_afterDraw]
    rfl
  · rw [busInit_err hd, busInit_err (unobserved_nextDraw s ▸ hd), unobserved_afterDraw]
    rfl

theorem unobserved_microW (x : Expr) : (microW x s.unobserved).unobserved = (microW x s).unobserved := by
  unfold microW
  rw [unobserved_evalExpr, unobserved_bl, unobserved_cfgAddr]
  split
  · exact unobserved_busWrite s _ _
  all_goals rfl

theorem unobserved_microSet (x : SetReg) (e : Expr) :
    (microSet x e s.unobserved).unobserved = (microSet x e s).unobserved := by
  unfold microSet
  rw [unobserved_evalExpr]
  split
  · cases x <;> rfl
  · rfl

theorem unobserved_micro (m : Uop) : (micro m s.unobserved).unobserved = (micro m s).unobserved := by
  cases m with
  | w x => exact unobserved_microW s x
  | t us => rfl
  | b => exact unobserved_busInit s
  | set x e => exact unobserved_microSet s x e

/-! ### The requests -/

theorem unobserved_takeRequest (q : Instr) :
    unobservedOutcome (takeRequest q s.unobserved) = unobservedOutcome (takeRequest q s) := by
  unfold takeRequest
  rw [unobserved_busy, unobserved_phase]
  split
  · exact congrArg Host.Outcome.next (unobserved_hold s q)
  · split <;> rfl

theorem unobserved_takeBegin (q : Instr) :
    unobservedOutcome (takeBegin q s.unobserved) = unobservedOutcome (takeBegin q s) := by
  unfold takeBegin
  rw [unobserved_busy, unobserved_phase]
  split
  · exact congrArg Host.Outcome.next (unobserved_hold s q)
  · split <;> rfl

theorem unobserved_execInit (a : BusAddr) (c r : Byte) (z : CharSize) :
    unobservedOutcome (execInit a c r z s.unobserved) = unobservedOutcome (execInit a c r z s) := by
  unfold execInit
  rw [unobserved_busy, unobserved_phase]
  split
  · exact congrArg Host.Outcome.next (unobserved_hold s _)
  · cases s.phase with
    | unconfigured => cases configProblem c r <;> rfl
    | configured | ready => rfl

theorem unobserved_exec_request {q : Instr} (hq : q.reqCode.isSome) :
    unobservedOutcome (exec q s.unobserved) = unobservedOutcome (exec q s) := by
  cases q with
  | init a c r z => exact unobserved_execInit s a c r z
  | begin => exact unobserved_takeBegin s .begin
  | w | t | b | set | pulseNibble | sendByte => cases hq
  | _ => exact unobserved_takeRequest s _

/-! ### The step -/

theorem unobserved_step_busy (hb : s.busy = true) :
    unobservedOutcome (step s) = unobservedOutcome (step s.unobserved) := by
  have hb' : s.unobserved.busy = true := hb
  rcases Nat.lt_trichotomy s.upc s.uprog.length with hlt | heq | hgt
  · have hm := List.getElem?_eq_getElem hlt
    rw [step_micro hb hm, step_micro hb' hm, unobservedOutcome_answer, unobservedOutcome_answer, unobserved_micro]
  · rw [step_finish hb heq, step_finish hb' heq]
    rfl
  · rw [step_stuck hb hgt, step_stuck hb' hgt]

theorem unobserved_step_record (r : List Byte) {rest : List (List Byte)} (hb : s.busy = false)
    (hi : s.inbox = r :: rest) : unobservedOutcome (step s) = unobservedOutcome (step s.unobserved) := by
  have hb' : s.unobserved.busy = false := hb
  have hi' : s.unobserved.inbox = r :: rest := hi
  cases hd : decode r with
  | ok q =>
    rw [step_record hb hi hd, step_record hb' hi' hd]
    exact (unobserved_exec_request { s with inbox := rest } (decode_request hd)).symm
  | error why =>
    by_cases hw : why = .unknownRequest
    · subst hw
      rw [step_unknown hb hi hd, step_unknown hb' hi' hd]
      rfl
    · rw [step_malformed hb hi hd hw, step_malformed hb' hi' hd hw]

/-- Settles O49: the step is one of the operations above, chosen by what both states share. -/
theorem observationStateIsNeverRead : Obligations.ObservationStateIsNeverRead := by
  intro s
  by_cases hb : s.busy = true
  · exact unobserved_step_busy s hb
  · have hb : s.busy = false := by simpa using hb
    have hb' : s.unobserved.busy = false := hb
    cases hi : s.inbox with
    | nil =>
      have hi' : s.unobserved.inbox = [] := hi
      rw [step_idle hb hi, step_idle hb' hi']
      rfl
    | cons r rest => exact unobserved_step_record s r hb hi

end Sys2Proof.Machine
end

section
/-! PROOFS. The requests that set one flag bit and send the whole register (R30, R132–R136): a `SET` and then a command,
taken, run with every bus operation acknowledged, and completed. -/

namespace Sys2Proof.Machine

/-- The operand `if on then S.X | FLAG else S.X & ~FLAG` changes the one bit (R132–R136). -/
theorem evalExpr_flagUpdate {s : State} {x : FlagReg} {v : Byte} (flag : Byte) (on : Bool)
    (h : readFlag s x = .ok v) : evalExpr s (flagUpdate x flag on) = .ok (withBit v flag on) := by
  cases on <;> simp [flagUpdate, withBit, evalExpr, h]

theorem readFlag_regValue {s : State} {x : SetReg} {v : Byte} (h : s.regValue x = some v) :
    readFlag s x.toFlagReg = .ok v := by
  cases x <;> simp_all [State.regValue, SetReg.toFlagReg, readFlag, need]

/-- The command `base | S.X` after `SET(X, …)` carries the value just set (R79). -/
theorem evalExpr_base_setFlag (s : State) (x : SetReg) (base v : Byte) :
    evalExpr (s.setFlag x v) (.or (.lit base) (.reg x.toFlagReg)) = .ok (base ||| v) := by
  have hread : readFlag (s.setFlag x v) x.toFlagReg = .ok v := readFlag_regValue (by rw [regValue_setFlag, if_pos rfl])
  simp [evalExpr, hread]

/-- The state that a `SET` and a transfer leave, once the request has completed. -/
theorem finish_did_setFlag {s : State} {q : Instr} {x : SetReg} {v : Byte} {evs : List Event} {out : ExpOut} {n k : Nat}
    (hbegin : q ≠ .begin) (hlen : k + 1 = (expand q).length) :
    ((((s.accept q).setFlag x v).advance).did n evs out k).finish = (s.completed q n evs out).setFlag x v := by
  have hnot : isBegin (some q) = false := Bool.eq_false_iff.2 fun h => hbegin (Option.some.inj ((isBegin_iff _).1 h))
  obtain ⟨hscript, hdraws⟩ := afterDraws_script_congr (n := n) (s := s) (t := ((s.accept q).setFlag x v).advance)
    (by simp) (by simp)
  rw [State.did, hscript, hdraws, State.completed, afterDraws_eq n s, ← hlen, Nat.add_comm k 1]
  cases x <;> simp [State.finish, State.setFlag, hnot]

/-- A request whose micro-program is `SET(X, e)` and then the command `c`, with X one of CTRL and ENTRY, completes in 12
steps: X holds the value of `e`, and `c` is evaluated with it (R182, R186, R189, R191). -/
theorem completes_setThenCmd {s : State} {q : Instr} {x : SetReg} {e c : Expr} {v w bl : Byte} {a : BusAddr}
    (hr : s.ReadyIdle a bl) (hreq : q.reqCode.isSome) (h0 : q.reqCode ≠ some 0) (hbegin : q ≠ .begin)
    (hprog : expand q = .set x e :: cmd c) (hx : x ≠ .bl) (he : evalExpr s e = .ok v)
    (hc : evalExpr (s.setFlag x v) c = .ok w) (hd : s.nextAcks 6) :
    Completes q s 12 ((s.completed q 6 (byteEvents a w 0x00 bl) (.known (restByte w 0x00 bl))).setFlag x v) := by
  refine ⟨exec_readyIdle hr hreq h0, ?_⟩
  let u : State := ((s.accept q).setFlag x v).advance
  have hset : micro (.set x e) (s.accept q) = .advanced u :=
    microSet_ok ((evalExpr_congr (s := s) (t := s.accept q) rfl rfl rfl rfl rfl e).trans he)
  have hcu : evalExpr u c = .ok w := by
    refine (evalExpr_congr (s := s.setFlag x v) ?_ ?_ ?_ ?_ ?_ c).trans hc <;> cases x <;> rfl
  have hbl : u.bl = some bl := by
    cases x with
    | ctrl | entry => exact hr.backlight
    | bl => exact absurd rfl hx
  have ha : u.cfgAddr = some a := by simpa [u] using hr.addr
  have hdu : u.nextAcks 6 := (nextAcks_congr (s := s) (by simp [u]) (by simp [u])).2 hd
  have hrun : microRun (.set x e :: cmd c) (s.accept q) =
      .advanced (u.did 6 (byteEvents a w 0x00 bl) (.known (restByte w 0x00 bl)) 10) := by
    rw [microRun, hset]
    exact microRun_byte .command hcu hbl ha hdu
  refine (run_program rfl rfl hprog hrun).trans (congrArg Host.Outcome.next ?_)
  exact finish_did_setFlag hbegin (by rw [hprog]; rfl)

/-- The requests of R132–R136: one bit of CTRL or ENTRY set or cleared, then `base | S.X` sent as a command. -/
theorem completes_flagRequest {s : State} {q : Instr} {x : SetReg} {v bl : Byte} {a : BusAddr} (base flag : Byte)
    (on : Bool) (hr : s.ReadyIdle a bl) (hv : s.regValue x = some v) (hd : s.nextAcks 6) (hx : x ≠ .bl)
    (hreq : q.reqCode.isSome) (h0 : q.reqCode ≠ some 0) (hbegin : q ≠ .begin)
    (hprog : expand q = .set x (flagUpdate x.toFlagReg flag on) :: cmd (.or (.lit base) (.reg x.toFlagReg))) :
    Completes q s 12 ((s.completed q 6 (byteEvents a (base ||| withBit v flag on) 0x00 bl)
      (.known (restByte (base ||| withBit v flag on) 0x00 bl))).setFlag x (withBit v flag on)) :=
  completes_setThenCmd hr hreq h0 hbegin hprog hx (evalExpr_flagUpdate flag on (readFlag_regValue hv))
    (evalExpr_base_setFlag s x base (withBit v flag on)) hd

/-- Settles O19: the three requests set their bit of CTRL and send it with the base 0x08. -/
theorem displayFlagRequestsSendTheWholeRegister : Obligations.DisplayFlagRequestsSendTheWholeRegister := by
  intro s a bl c on hr hc hd
  have completes {q : Instr} (flag : Byte) :=
    completes_flagRequest (q := q) (x := .ctrl) Config.displayControl flag on hr hc hd (by decide)
  exact ⟨completes Config.displayOn rfl (by simp [Instr.reqCode]) nofun rfl,
    completes Config.cursorOn rfl (by simp [Instr.reqCode]) nofun rfl,
    completes Config.blinkOn rfl (by simp [Instr.reqCode]) nofun rfl⟩

/-- Settles O20: the two requests set their bit of ENTRY and send it with the base 0x06 (C1). -/
theorem entryModeRequestsSendTheWholeRegister : Obligations.EntryModeRequestsSendTheWholeRegister := by
  intro s a bl e on hr he hd
  have completes {q : Instr} (flag : Byte) :=
    completes_flagRequest (q := q) (x := .entry) Config.entryModeSet flag on hr he hd (by decide)
  exact ⟨completes Config.entryLeft rfl (by simp [Instr.reqCode]) nofun rfl,
    completes Config.entryShiftIncrement rfl (by simp [Instr.reqCode]) nofun rfl⟩

end Sys2Proof.Machine
end

section
/-! PROOFS. Bytes sent as data, and the requests made of them (R163–R165, R188–R190): the transfers in a row, and a
request that is taken, run with every bus operation acknowledged, and completed. -/

namespace Sys2Proof.Machine

/-- `mode` as the statements write it (R78). -/
theorem modeBits_eq (m : Mode) : modeBits m = if m = .data then 0x01 else 0x00 := by
  cases m <;> rfl

/-- Settles O35: the primitive runs a byte transfer's ten micro-operations, and those are two nibble transfers. -/
theorem byteTransferSendsHighNibbleFirst : Obligations.ByteTransferSendsHighNibbleFirst := by
  intro s v v8 m bl a hv hbl ha hd
  have hrun : exec (.sendByte v m) s = (microRun (byteProg v m) s).answer := rfl
  rw [hrun, microRun_byte m hv hbl ha hd, did_eq, modeBits_eq]
  rfl

theorem accept_nextAcks (s : State) (q : Instr) (n : Nat) : (s.accept q).nextAcks n ↔ s.nextAcks n :=
  nextAcks_congr rfl rfl

/-- Nothing done is no change. -/
theorem did_nothing (s : State) : s.did 0 [] s.expOut 0 = s := by
  simp [State.did, State.afterDraws]

/-- Acknowledged data bytes, one transfer after another (R163, R165, R190). -/
theorem microRun_progData {s : State} {bl : Byte} {a : BusAddr} {bytes : List Byte} (hb : s.bl = some bl)
    (ha : s.cfgAddr = some a) (hd : s.nextAcks (6 * bytes.length)) :
    microRun (progData bytes) s = .advanced
      (s.did (6 * bytes.length) (dataEvents a bl bytes) (dataExpOut bl s.expOut bytes) (10 * bytes.length)) := by
  induction bytes generalizing s with
  | nil => exact congrArg MicroOutcome.advanced (did_nothing s).symm
  | cons v rest ih =>
    rw [List.length_cons, Nat.mul_succ, Nat.add_comm] at hd ⊢
    obtain ⟨hfirst, hrest⟩ := (nextAcks_add 6 (6 * rest.length) s).1 hd
    let t : State := s.did 6 (byteEvents a v 0x01 bl) (.known (restByte v 0x01 bl)) 10
    have hv : microRun (data v) s = .advanced t := microRun_byte .data rfl hb ha hfirst
    rw [progData, microRun_append hv, ih (s := t) hb ha ((did_nextAcks ..).2 hrest), did_did, Nat.mul_succ,
      Nat.add_comm 10]
    rfl

/-- The completion of a request other than begin, at the end of its micro-program (R191). -/
theorem finish_accept_did {s : State} {q : Instr} {n : Nat} {evs : List Event} {out : ExpOut} (hbegin : q ≠ .begin) :
    ((s.accept q).did n evs out (expand q).length).finish = s.completed q n evs out := by
  have hnot : isBegin (some q) = false := Bool.eq_false_iff.2 fun h => hbegin (Option.some.inj ((isBegin_iff _).1 h))
  obtain ⟨hscript, hdraws⟩ := afterDraws_script_congr (n := n) (s := s) (t := s.accept q) (by simp) (by simp)
  rw [State.did, hscript, hdraws, State.completed, afterDraws_eq n s]
  simp [State.finish, hnot]

/-- A request other than init and begin whose micro-program is only acknowledged transfers and waits completes one step
after its last micro-operation (R182, R191). -/
theorem completes_of_microRun {s : State} {q : Instr} {bl : Byte} {a : BusAddr} {n : Nat} {evs : List Event}
    {out : ExpOut} (hr : s.ReadyIdle a bl) (hreq : q.reqCode.isSome) (h0 : q.reqCode ≠ some 0) (hbegin : q ≠ .begin)
    (hrun : microRun (expand q) (s.accept q) = .advanced ((s.accept q).did n evs out (expand q).length)) :
    Completes q s ((expand q).length + 1) (s.completed q n evs out) :=
  ⟨exec_readyIdle hr hreq h0, (run_program rfl rfl rfl hrun).trans (by rw [finish_accept_did hbegin])⟩

/-- `SET_CGRAM_ADDR | (slot << 3)` is `0x40 + 8·slot`: the slot is below 8, so nothing is shifted out (R163). -/
theorem cgramCmd_eq (slot : BitVec 3) : cgramCmd slot = BitVec.ofNat 8 (0x40 + 8 * slot.toNat) := by
  revert slot
  decide

/-- Settles O25: the command with the CGRAM address, then the eight pattern bytes as data. -/
theorem defineGlyphSendsTheAddressAndThePattern : Obligations.DefineGlyphSendsTheAddressAndThePattern := by
  intro s a bl slot p hr hd
  let t : State := s.accept (.defineGlyph slot p)
  obtain ⟨hcmd, hdata⟩ := (nextAcks_add 6 48 t).1 ((accept_nextAcks ..).2 hd)
  rw [← cgramCmd_eq]
  let u : State := t.did 6 (byteEvents a (cgramCmd slot) 0x00 bl) (.known (restByte (cgramCmd slot) 0x00 bl)) 10
  have haddr : microRun (cmd (.lit (cgramCmd slot))) t = .advanced u :=
    microRun_byte .command rfl hr.backlight hr.addr hcmd
  have hpattern := microRun_progData (s := u) (bytes := p.toList) hr.backlight hr.addr ((did_nextAcks ..).2 hdata)
  rw [did_did] at hpattern
  exact completes_of_microRun hr rfl (by simp [Instr.reqCode]) nofun ((microRun_append haddr).trans hpattern)

end Sys2Proof.Machine
end

section
/-! PROOFS. What transfers latch on the LCD's bus (R195): a nibble transfer one nibble, a byte transfer two. -/

namespace Sys2Proof.Machine

/-- A write with EN low latches nothing (R195 item 2). -/
theorem latches_enLow {v : Byte} (a : BusAddr) (evs : List Event) (h : enHigh v = false) :
    latches (.write a v .ack :: evs) = latches evs := by
  simp [latches, ackWrites, latchesOfWrites, h]

/-- A write with EN high and the EN-low write to the same address after it latch the first one's nibble; waits between
them are no writes (R195 item 1). -/
theorem latches_pulse {u v : Byte} (a : BusAddr) (us : Nat) (evs : List Event) (hu : enHigh u = true)
    (hv : enHigh v = false) :
    latches (.write a u .ack :: .wait us :: .write a v .ack :: evs) = latchOf u :: latches evs := by
  simp [latches, ackWrites, latchesOfWrites, nextWriteTo, hu, hv]

theorem latches_wait (us : Nat) (evs : List Event) : latches (.wait us :: evs) = latches evs := rfl

/-- EN and the backlight bit are no part of what latches: the LCD sees the nibble and RS (R71, R195). -/
theorem latchOf_en_bl (n8 : Byte) {bl : Byte} (hbl : bl = 0x08 ∨ bl = 0x00) :
    latchOf (n8 ||| 0x04 ||| bl) = latchOf n8 := by
  obtain rfl | rfl := hbl <;> simp [latchOf, decodeExp8, BitVec.extractLsb'_or]

theorem enHigh_or (x y : Byte) : enHigh (x ||| y) = (enHigh x || enHigh y) := BitVec.getLsbD_or

theorem enHigh_and (x y : Byte) : enHigh (x &&& y) = (enHigh x && enHigh y) := BitVec.getLsbD_and

/-- An acknowledged nibble transfer latches its nibble once, whatever events follow (R77, R195). -/
theorem latches_nibbleEvents {n8 bl : Byte} (a : BusAddr) (evs : List Event) (hbl : bl = 0x08 ∨ bl = 0x00)
    (hn : enHigh n8 = false) : latches (nibbleEvents a n8 bl ++ evs) = latchOf n8 :: latches evs := by
  have hlit : enHigh 4#8 = true ∧ enHigh 251#8 = false := by decide
  have hen : enHigh bl = false := by obtain rfl | rfl := hbl <;> rfl
  have hsetup : enHigh (n8 ||| bl) = false := by simp [enHigh_or, hn, hen]
  have hpulse : enHigh (n8 ||| 0x04 ||| bl) = true := by simp [enHigh_or, hlit]
  have hlow : enHigh (n8 &&& 0xFB ||| bl) = false := by simp [enHigh_or, enHigh_and, hlit, hen]
  simp only [nibbleEvents, List.cons_append, List.nil_append]
  rw [latches_enLow a _ hsetup, latches_pulse a 1 _ hpulse hlow, latches_wait, latchOf_en_bl n8 hbl]

/-- A nibble with its mode has EN low (R78). -/
theorem enHigh_nibble_mode (x : Byte) (m : Mode) : enHigh (x &&& 0xF0 ||| modeBits m) = false := by
  have hmask : enHigh 240#8 = false := by decide
  have hmode : enHigh (modeBits m) = false := by cases m <;> rfl
  simp [enHigh_or, enHigh_and, hmask, hmode]

/-- What a nibble with its mode latches: bits 7:4, and RS for data (R78, R195). -/
theorem latchOf_nibble_mode (x : Byte) (m : Mode) :
    latchOf (x &&& 0xF0 ||| modeBits m) = { rs := decide (m = .data), d := x.extractLsb' 4 4 } := by
  cases m <;> revert x <;> decide

theorem extractLsb'_shl4 (v : Byte) : (v <<< 4).extractLsb' 4 4 = v.extractLsb' 0 4 := by
  revert v
  decide

theorem append_nibbles (v : Byte) : v.extractLsb' 4 4 ++ v.extractLsb' 0 4 = v := by
  revert v
  decide

/-- An acknowledged byte transfer latches the byte's high nibble and then its low one, both with its RS, whatever events
follow (R188, R195). -/
theorem latches_byteEvents {bl : Byte} (a : BusAddr) (v : Byte) (m : Mode) (evs : List Event)
    (hbl : bl = 0x08 ∨ bl = 0x00) :
    latches (byteEvents a v (modeBits m) bl ++ evs) =
      { rs := decide (m = .data), d := v.extractLsb' 4 4 } :: { rs := decide (m = .data), d := v.extractLsb' 0 4 } ::
        latches evs := by
  rw [byteEvents, List.append_assoc, latches_nibbleEvents a _ hbl (enHigh_nibble_mode v m),
    latches_nibbleEvents a _ hbl (enHigh_nibble_mode (v <<< 4) m), latchOf_nibble_mode, latchOf_nibble_mode,
    extractLsb'_shl4]

/-- The two latches of a byte, at the head of others, pair to that byte (R195 item 3). -/
theorem pairUp_nibbles (rs rs' : Bool) (v : Byte) (rest : List Latch) :
    pairUp ({ rs := rs, d := v.extractLsb' 4 4 } :: { rs := rs', d := v.extractLsb' 0 4 } :: rest) =
      { rs := rs, value := v } :: pairUp rest := by
  rw [pairUp, append_nibbles]

/-- Settles O54: a byte transfer with no event after it. -/
theorem byteTransferLatchesTheByte : Obligations.ByteTransferLatchesTheByte := by
  intro a v bl m hbl
  have hlatches := latches_byteEvents a v m [] hbl
  rw [List.append_nil] at hlatches
  rw [hlatches]
  exact ⟨rfl, pairUp_nibbles ..⟩

end Sys2Proof.Machine
end

section
/-! PROOFS. Legal schedules (R62, R180, R197): their parts, and the time that waits and timeouts take. -/

namespace Sys2Proof.Machine

/-- An event's least time covers the wait it stands for (R184). -/
theorem minWait_le_minDuration (e : Event) : e.minWait ≤ e.minDuration := by
  cases e with
  | wait us => exact Nat.le_refl us
  | accept _ | busInit _ | write _ _ _ | complete _ => exact Nat.zero_le _

theorem legal_of_legalSchedule_cons {x : Timed} {l : List Timed} (h : legalSchedule (x :: l)) : x.legal := by
  cases l with
  | nil => exact h
  | cons y rest => exact h.1

theorem legalSchedule_of_cons {x : Timed} {l : List Timed} (h : legalSchedule (x :: l)) : legalSchedule l := by
  cases l with
  | nil => trivial
  | cons y rest => exact h.2.2

theorem legalSchedule_of_append {pre l : List Timed} (h : legalSchedule (pre ++ l)) : legalSchedule l := by
  induction pre with
  | nil => exact h
  | cons x pre ih => exact ih (legalSchedule_of_cons h)

theorem legal_of_mem {x : Timed} {sched : List Timed} (h : legalSchedule sched) (hx : x ∈ sched) : x.legal := by
  obtain ⟨pre, post, rfl⟩ := List.append_of_mem hx
  exact legal_of_legalSchedule_cons (legalSchedule_of_append h)

/-- Back-to-back waits add up: by induction on the events between, each takes its time before the next starts (R197). -/
theorem finish_add_minWait_le_start {x y : Timed} {between post : List Timed}
    (h : legalSchedule (x :: (between ++ y :: post))) : x.finish + minWait (between.map (·.event)) ≤ y.start := by
  induction between generalizing x with
  | nil =>
    obtain ⟨-, hnext, -⟩ := h
    exact hnext
  | cons z between ih =>
    obtain ⟨-, hnext, hrest⟩ := h
    have hz : z.start + z.event.minDuration ≤ z.finish := legal_of_legalSchedule_cons hrest
    have hwait := minWait_le_minDuration z.event
    have hlast := ih hrest
    rw [List.map_cons, minWait]
    omega

/-- Settles O59: the waits by `finish_add_minWait_le_start`, the timeout by the least time of its write. -/
theorem waitsSeparateTheirNeighbours : Obligations.WaitsSeparateTheirNeighbours := by
  refine ⟨fun pre between post x y h => finish_add_minWait_le_start (legalSchedule_of_append h), ?_⟩
  intro sched x a v h hx hevent
  have hlegal : x.start + x.event.minDuration ≤ x.finish := legal_of_mem h hx
  rwa [hevent] at hlegal

end Sys2Proof.Machine
end

section
/-! PROOFS. The request record (R80–R82, R86; log entry 5): each operand field reads back from its byte and determines
it, and with the fields the whole record. -/

namespace Sys2Proof

/-! ### The operand fields -/

theorem fieldBit_bitByte (on : Bool) : fieldBit (bitByte on) = some on := by cases on <;> rfl

theorem fieldDir_byte (dir : ScrollDir) : fieldDir dir.byte = some dir := by cases dir <;> rfl

theorem fieldCharSize_byte (cs : CharSize) : fieldCharSize cs.byte = some cs := by cases cs <;> rfl

theorem fieldAddr_zeroExtend (addr : BusAddr) : fieldAddr (addr.zeroExtend 8) = some addr := by
  revert addr
  decide

theorem fieldSlot_zeroExtend (slot : BitVec 3) : fieldSlot (slot.zeroExtend 8) = some slot := by
  revert slot
  decide

theorem bitByte_of_fieldBit {x : Byte} {on : Bool} (h : fieldBit x = some on) : bitByte on = x := by
  revert x on
  decide

theorem byte_of_fieldDir {x : Byte} {dir : ScrollDir} (h : fieldDir x = some dir) : dir.byte = x := by
  cases dir <;> revert x <;> decide

theorem byte_of_fieldCharSize {x : Byte} {cs : CharSize} (h : fieldCharSize x = some cs) : cs.byte = x := by
  cases cs <;> revert x <;> decide

/-- A byte with no bit set above bit 6 is the 7-bit value it holds. -/
theorem zeroExtend_of_fieldAddr {x : Byte} {addr : BusAddr} (h : fieldAddr x = some addr) :
    addr.zeroExtend 8 = x := by
  have hlow : ∀ x : Byte, x &&& 0x80 = 0 → (x.truncate 7).zeroExtend 8 = x := by decide
  obtain ⟨hx, hfield⟩ := Option.ite_none_right_eq_some.1 h
  obtain rfl := Option.some.inj hfield
  exact hlow x hx

/-- A byte with no bit set above bit 2 is the 3-bit value it holds. -/
theorem zeroExtend_of_fieldSlot {x : Byte} {slot : BitVec 3} (h : fieldSlot x = some slot) :
    slot.zeroExtend 8 = x := by
  have hlow : ∀ x : Byte, x &&& 0xF8 = 0 → (x.truncate 3).zeroExtend 8 = x := by decide
  obtain ⟨hx, hfield⟩ := Option.ite_none_right_eq_some.1 h
  obtain rfl := Option.some.inj hfield
  exact hlow x hx

/-! ### From the request to the record and back -/

theorem decodeOne_of_field {α : Type} {f : Byte → Option α} (mk : α → Instr) {x : Byte} {a : α} (h : f x = some a) :
    decodeOne f mk [x] = .ok (mk a) := by
  simp [decodeOne, h]

theorem decodeInit_fields (addr : BusAddr) (c r : Byte) (cs : CharSize) :
    decodeInit [addr.zeroExtend 8, c, r, cs.byte] = .ok (.init addr c r cs) := by
  rw [decodeInit, fieldAddr_zeroExtend, fieldCharSize_byte]

theorem decodeGlyph_fields (slot : BitVec 3) (p : Glyph) :
    decodeGlyph (slot.zeroExtend 8 :: p.toList) = .ok (.defineGlyph slot p) := by
  rw [Glyph.toList, decodeGlyph, fieldSlot_zeroExtend]

/-- A request decodes from its record: the code selects the operand decoder, which reads the fields back (R80, R81). -/
theorem decode_encode {i : Instr} {r : List Byte} (h : encode i = some r) : decode r = .ok i := by
  cases i <;> simp only [encode, reduceCtorEq, Option.some.injEq] at h <;> subst h
  case init addr c r cs => exact decodeInit_fields addr c r cs
  case begin | clear | home => rfl
  case setDisplay on => exact decodeOne_of_field .setDisplay (fieldBit_bitByte on)
  case setCursor on => exact decodeOne_of_field .setCursor (fieldBit_bitByte on)
  case setBlink on => exact decodeOne_of_field .setBlink (fieldBit_bitByte on)
  case scroll dir => exact decodeOne_of_field .scroll (fieldDir_byte dir)
  case setEntryDirection ltr => exact decodeOne_of_field .setEntryDirection (fieldBit_bitByte ltr)
  case setAutoscroll on => exact decodeOne_of_field .setAutoscroll (fieldBit_bitByte on)
  case setBacklight on => exact decodeOne_of_field .setBacklight (fieldBit_bitByte on)
  case setCursorPosition col row => rfl
  case defineGlyph slot p => exact decodeGlyph_fields slot p
  case writeChar byte => rfl
  case writeText bytes => rfl

/-- Exactly the requests have a record (R86). -/
theorem encode_isSome (i : Instr) : (encode i).isSome = i.reqCode.isSome := by
  cases i <;> rfl

/-- Settles O2: each operand field reads back from its byte, and the code selects the decoder of its fields. -/
theorem decodeInvertsEncode : Obligations.DecodeInvertsEncode :=
  ⟨fun _ _ => decode_encode, encode_isSome⟩

/-! ### From the record to the request and back -/

/-- What the operand decoder of a code reads is the record of that code and those operand bytes: case by case along the
codes, every field determines its byte. -/
theorem encode_of_decodeOperands {code : BitVec 4} {ops : List Byte} {i : Instr}
    (h : decodeOperands code ops = .ok i) : encode i = some (BitVec.ofNat 8 code.toNat :: ops) := by
  unfold decodeOperands at h
  split at h
  case h_16 => cases h
  all_goals rename_i hcode; rw [hcode]
  case h_1 =>
    obtain ⟨a, c, r, z, addr, cs, rfl, ha, hz, rfl⟩ := decodeInit_ok h
    rw [encode, zeroExtend_of_fieldAddr ha, byte_of_fieldCharSize hz]
    rfl
  case h_2 | h_3 | h_4 =>
    obtain ⟨rfl, rfl⟩ := decodeNone_ok h
    rfl
  case h_5 | h_6 | h_7 | h_9 | h_10 | h_11 =>
    obtain ⟨x, on, rfl, hx, rfl⟩ := decodeOne_ok h
    rw [encode, bitByte_of_fieldBit hx]
    rfl
  case h_8 =>
    obtain ⟨x, dir, rfl, hx, rfl⟩ := decodeOne_ok h
    rw [encode, byte_of_fieldDir hx]
    rfl
  case h_12 =>
    obtain ⟨c, r, rfl, rfl⟩ := decodePosition_ok h
    rfl
  case h_13 =>
    obtain ⟨x, slot, p, rfl, hx, rfl⟩ := decodeGlyph_ok h
    rw [encode, zeroExtend_of_fieldSlot hx]
    rfl
  case h_14 =>
    obtain ⟨x, byte, rfl, hx, rfl⟩ := decodeOne_ok h
    obtain rfl := Option.some.inj hx
    rfl
  case h_15 =>
    obtain rfl := Except.ok.inj h
    rfl

/-- The first byte of a record is its code: bits 7:4 are 0. -/
theorem ofNat_truncate_code {c : Byte} (h : c &&& 0xF0 = 0) : BitVec.ofNat 8 (c.truncate 4).toNat = c := by
  have hlow : ∀ c : Byte, c &&& 0xF0 = 0 → BitVec.ofNat 8 (c.truncate 4).toNat = c := by decide
  exact hlow c h

theorem encode_decode {r : List Byte} {i : Instr} (h : decode r = .ok i) : encode i = some r := by
  cases r with
  | nil => cases h
  | cons c ops =>
    obtain ⟨hc, hops⟩ := decode_cons h
    rw [encode_of_decodeOperands hops, ofNat_truncate_code hc]

/-- The checks of `wellFormed` are on micro-operations and primitives only (R80). -/
theorem wellFormed_of_request {i : Instr} (h : i.reqCode.isSome) : i.wellFormed = true := by
  cases i with
  | w | t | b | set | pulseNibble | sendByte => cases h
  | _ => rfl

/-- Settles O3: every field determines its byte, so what decodes is the record of what it decodes to. -/
theorem encodeInvertsDecode : Obligations.EncodeInvertsDecode :=
  fun _ _ h => ⟨encode_decode h, wellFormed_of_request (decode_request h)⟩

/-- Settles O1: the record of each code with operand bits 0, decoded. -/
theorem tableWordsDecodeToTheirRequests : Obligations.TableWordsDecodeToTheirRequests :=
  ⟨rfl, rfl, rfl, rfl, rfl, rfl, rfl, rfl, rfl, rfl, rfl, rfl, rfl, rfl, rfl, rfl⟩

end Sys2Proof
end

section
/-! PROOFS. The expander byte (R71) and the command bytes (R73, R79, R83, C1): each class's byte reads back as that
class, and each command byte a request sends is the byte of its class. -/

namespace Sys2Proof

/-- Settles O4: a byte is its eight bits, and the fields are those bits. -/
theorem expanderByteFieldsRoundTrip : Obligations.ExpanderByteFieldsRoundTrip := by
  refine ⟨by decide, fun x => ?_, fun v => ⟨rfl, rfl, rfl, rfl, rfl⟩⟩
  obtain ⟨data, bl, en, rw, rs⟩ := x
  revert data bl en rw rs
  decide

/-- The class and the fields of a command byte read back from it (R73). -/
theorem decodeCmd8_byte (c : CmdClass) : decodeCmd8 c.byte = some c := by
  cases c with
  | clearDisplay | returnHome => rfl
  | entryModeSet id s => revert id s; decide
  | displayControl d c b => revert d c b; decide
  | cursorShift m r => revert m r; decide
  | functionSet l n f => revert l n f; decide
  | setCgramAddr a => revert a; decide
  | setDdramAddr a => revert a; decide

/-- Settles O5: the classes read back by `decodeCmd8_byte`; a byte of no class has no bit set. -/
theorem commandClassesRoundTrip : Obligations.CommandClassesRoundTrip :=
  ⟨decodeCmd8_byte, by decide⟩

namespace Machine

theorem displayControl_byte {c : Byte} (h : c &&& 0xF8 = 0) :
    0x08 ||| c = (CmdClass.displayControl (ctrlD c) (ctrlC c) (ctrlB c)).byte := by
  revert c
  decide

/-- The base 0x06 has the direction bit set already, so ENTRY's own is lost in it (C1). -/
theorem entryModeSet_byte {e : Byte} (h : e &&& 0xFC = 0) :
    0x06 ||| e = (CmdClass.entryModeSet true (entryS e)).byte := by
  revert e
  decide

theorem scrollCmd_byte (dir : ScrollDir) :
    scrollCmd dir = (CmdClass.cursorShift true (dir = .right)).byte := by
  cases dir <;> rfl

theorem functionSet_byte (r : Byte) (z : CharSize) :
    0x20 ||| funcFlags r z =
      (CmdClass.functionSet false (decide (r.toNat > 1)) (decide (z = .dots5x10 ∧ r.toNat = 1))).byte := by
  simp only [funcFlags, CmdClass.byte, fieldWeight, decide_eq_true_eq, ← BitVec.or_assoc]
  rfl

theorem cgramCmd_byte (slot : BitVec 3) :
    cgramCmd slot = (CmdClass.setCgramAddr (slot.zeroExtend 6 <<< 3)).byte := by
  revert slot
  decide

/-- Masking a sum with 0x7F is taking its 7 low bits (R162). -/
theorem ddramByte_byte (col off : Byte) :
    ddramByte col off = (CmdClass.setDdramAddr (BitVec.ofNat 7 (col.toNat + off.toNat))).byte := by
  have hlow : trunc8 ((col.toNat + off.toNat) &&& 0x7F) = (BitVec.ofNat 7 (col.toNat + off.toNat)).zeroExtend 8 := by
    apply BitVec.eq_of_toNat_eq
    simp [trunc8, Nat.and_two_pow_sub_one_eq_mod (n := 7)]
  rw [ddramByte, hlow]
  rfl

/-- Settles O6: each of these bytes is the byte of its class, which reads back. -/
theorem commandBytesCarryTheirFields : Obligations.CommandBytesCarryTheirFields := by
  refine ⟨fun c hc => ?_, fun e he => ?_, fun dir => ?_, fun r z => ?_, fun slot => ?_, fun col off => ?_⟩
  · rw [displayControl_byte hc, decodeCmd8_byte]
  · rw [entryModeSet_byte he, decodeCmd8_byte]
  · rw [scrollCmd_byte, decodeCmd8_byte]
  · rw [functionSet_byte, decodeCmd8_byte]
  · rw [cgramCmd_byte, decodeCmd8_byte]
  · rw [ddramByte_byte, decodeCmd8_byte]

end Machine

end Sys2Proof
end

section
/-! PROOFS. Requests and primitives made of acknowledged transfers (R164, R165, R187), a primitive as the machine's
steps (R86, R198), and the refusal of code 0xF (R82). -/

namespace Sys2Proof.Machine

/-- Settles O26: one byte transfer in mode data. -/
theorem writeCharSendsOneDataByte : Obligations.WriteCharSendsOneDataByte := by
  intro s a bl v hr hd
  exact completes_of_microRun hr rfl (by simp [Instr.reqCode]) nofun
    (microRun_byte .data rfl hr.backlight hr.addr ((accept_nextAcks ..).2 hd))

theorem progData_length (bytes : List Byte) : (progData bytes).length = 10 * bytes.length := by
  induction bytes with
  | nil => rfl
  | cons v rest ih =>
    rw [progData, List.length_append, ih, List.length_cons, Nat.mul_succ, Nat.add_comm]
    rfl

/-- Settles O27: the data transfers in a row, by `microRun_progData`. -/
theorem writeTextSendsItsBytesInOrder : Obligations.WriteTextSendsItsBytesInOrder := by
  intro s a bl bytes hr hd
  have hlen : (expand (.writeText bytes)).length = 10 * bytes.length := progData_length bytes
  have hrun := microRun_progData (s := s.accept (.writeText bytes)) hr.backlight hr.addr ((accept_nextAcks ..).2 hd)
  rw [← hlen] at hrun ⊢
  exact completes_of_microRun hr rfl (by simp [Instr.reqCode]) nofun hrun

/-- Settles O34: the primitive runs the five micro-operations of a nibble transfer. -/
theorem nibbleTransferMakesThreeWrites : Obligations.NibbleTransferMakesThreeWrites := by
  intro s n n8 bl a hn hbl ha hd
  have hrun : exec (.pulseNibble n) s = (microRun (nibbleProg n) s).answer := rfl
  rw [hrun, microRun_nibble hn hbl ha hd, did_eq]
  rfl

/-! ### A primitive and the machine's steps -/

/-- Micro-operations in a row all advance, or end as the first one that does not (R61, R192). -/
theorem microRun_cases (ms : List Uop) (s : State) :
    (∃ t, microRun ms s = .advanced t) ∨
    ∃ pre m rest u, ms = pre ++ m :: rest ∧ microRun pre s = .advanced u ∧ microRun ms s = micro m u ∧
      ∀ t, micro m u ≠ .advanced t := by
  induction ms generalizing s with
  | nil => exact .inl ⟨s, rfl⟩
  | cons m ms ih =>
    cases hm : micro m s with
    | advanced v =>
      have hcons : ∀ l, microRun (m :: l) s = microRun l v := fun l => by rw [microRun, hm]
      rcases ih v with ⟨t, ht⟩ | ⟨pre, m', rest, u, rfl, hpre, hend, hstop⟩
      · exact .inl ⟨t, (hcons ms).trans ht⟩
      · exact .inr ⟨m :: pre, m', rest, u, rfl, (hcons pre).trans hpre, (hcons _).trans hend, hstop⟩
    | aborted v => exact .inr ⟨[], m, ms, s, rfl, rfl, by rw [microRun, hm], by simp [hm]⟩
    | fault f => exact .inr ⟨[], m, ms, s, rfl, rfl, by rw [microRun, hm], by simp [hm]⟩

/-- While the request runs, the micro-operation after those that advanced is the machine's next step. -/
theorem run_succ_microRun_advanced {pre post : List Uop} {m : Uop} {s u : State} (hb : s.busy = true)
    (hd : s.uprog.drop s.upc = pre ++ m :: post) (h : microRun pre s = .advanced u) :
    Sys2Proof.core.run (pre.length + 1) s = (micro m u).answer := by
  obtain ⟨hrun, hbu, -, hprog, hupc⟩ := run_microRun_advanced hb hd h
  have hrest : u.uprog.drop u.upc = m :: post := by rw [hprog, hupc, ← List.drop_drop, hd, List.drop_left]
  rw [run_add_of_next hrun, run_one, step_micro hbu (getElem?_of_drop hrest).1]

/-- An instruction that runs micro-operations in a row, where they stand at UPC, does what the next steps do one by
one: all of them, or those up to the first that aborts or faults (R187, R188, R198). -/
theorem microRun_answer_eq_run {ms post : List Uop} {s : State} (hb : s.busy = true)
    (hd : s.uprog.drop s.upc = ms ++ post) :
    (∃ t, (microRun ms s).answer = .next t ∧ t.busy = true ∧ Sys2Proof.core.run ms.length s = .next t) ∨
    (∃ t k, (microRun ms s).answer = .next t ∧ t.busy = false ∧ k < ms.length ∧
      Sys2Proof.core.run (k + 1) s = .next t) ∨
    (∃ f k, (microRun ms s).answer = .fault f ∧ k < ms.length ∧ Sys2Proof.core.run (k + 1) s = .fault f) := by
  rcases microRun_cases ms s with ⟨t, ht⟩ | ⟨pre, m, rest, u, rfl, hpre, hend, hstop⟩
  · obtain ⟨hrun, hbusy, -⟩ := run_microRun_advanced hb hd ht
    exact .inl ⟨t, by rw [ht]; rfl, hbusy, hrun⟩
  · have hk : pre.length < (pre ++ m :: rest).length := by simp
    have hrun := run_succ_microRun_advanced hb ((List.append_assoc pre (m :: rest) post) ▸ hd) hpre
    rw [hend]
    cases hm : micro m u with
    | advanced t => exact absurd hm (hstop t)
    | aborted t => exact .inr (.inl ⟨t, pre.length, rfl, (micro_aborted_frame hm).1, hk, by rw [hrun, hm]; rfl⟩)
    | fault f => exact .inr (.inr ⟨f, pre.length, rfl, hk, by rw [hrun, hm]; rfl⟩)

/-- Settles O36: a primitive, as an instruction, runs its micro-operations in a row. -/
theorem primitivesAreTheirMicroOperations : Obligations.PrimitivesAreTheirMicroOperations := by
  rintro s i ms post (⟨n, rfl, rfl⟩ | ⟨v, m, rfl, rfl⟩) hb hd
  · exact microRun_answer_eq_run hb hd
  · exact microRun_answer_eq_run hb hd

/-! ### Code 0xF -/

/-- Settles O13: the record is rejected by name, and the refusal keeps a mark that is set. -/
theorem unassignedCodeIsRefused : Obligations.UnassignedCodeIsRefused := by
  intro s ops rest hb hi
  rw [step_unknown hb hi (decode_unassigned ops), State.refuse]
  cases s.refusal <;> rfl

end Sys2Proof.Machine
end

section
/-! PROOFS. The writes of a step (R22, R72, R193): to CFG_ADDR, with RW = 0 and the backlight bit of BL. -/

namespace Sys2Proof.Machine

/-- The operand of a `W` leaves the backlight bit to BL (R183, R193). -/
theorem State.Inv.w_operand_backlight {s : State} (h : s.Inv) (hb : s.busy = true) {x : Expr} {w : Byte}
    (hm : s.uprog[s.upc]? = some (.w x)) (hx : evalExpr s x = .ok w) : w.getLsbD 3 = false := by
  have hmask : x.mayBits &&& 0x0A = 0 := beq_iff_eq.1 (h.wellFormed hb hm)
  by_contra hw
  have hmay := within_iff.1 (h.operand_mayBits hb hx) 3 (by simpa using hw)
  have hbit : (x.mayBits &&& 0x0A).getLsbD 3 = false := by rw [hmask]; rfl
  rw [BitVec.getLsbD_and, hmay] at hbit
  exact absurd hbit (by decide)

/-- What the rules ask of a byte `v` written to `a` in state `s` (R22, R72, R193). -/
def State.GoodWrite (s : State) (a : BusAddr) (v : Byte) : Prop :=
  s.cfgAddr = some a ∧ v.getLsbD 1 = false ∧ ∃ bl, s.bl = some bl ∧ v.getLsbD 3 = bl.getLsbD 3

theorem State.Inv.goodWrite_of_sends {s : State} {m : Uop} (h : s.Inv) (hb : s.busy = true)
    (hm : s.uprog[s.upc]? = some m) {a : BusAddr} {v : Byte} (hs : s.Sends m a v) : s.GoodWrite a v := by
  obtain ⟨ha, hrw⟩ := h.sends hb hm hs
  obtain ⟨x, w, bl, rfl, hx, hbl, -, rfl⟩ := hs
  refine ⟨ha, hrw, bl, hbl, ?_⟩
  rw [BitVec.getLsbD_or, h.w_operand_backlight hb hm hx, Bool.false_or]

theorem State.Inv.goodWrite_of_micro {s t : State} {m : Uop} (h : s.Inv) (hb : s.busy = true)
    (hm : s.uprog[s.upc]? = some m) (hend : micro m s = .advanced t ∨ micro m s = .aborted t) {a : BusAddr} {v : Byte}
    {o : Answer} (hw : Event.write a v o ∈ t.trace.drop s.trace.length) : s.GoodWrite a v := by
  obtain ⟨es, hes, -, hsent⟩ := micro_trace hend
  rw [hes, List.drop_left] at hw
  exact h.goodWrite_of_sends hb hm (hsent a v o hw)

/-- Settles O51: only a micro-operation's move adds a write, the byte it sends. -/
theorem everyWriteCarriesTheBacklight : Obligations.EveryWriteCarriesTheBacklight := by
  intro s t a v o hinv h hw
  cases move_of_step h with
  | advance hb hm hadv => exact hinv.goodWrite_of_micro hb hm (.inl hadv) hw
  | abort hb hm habt => exact hinv.goodWrite_of_micro hb hm (.inr habt) hw
  | complete | idle | refuse | accept | badInit | init => simp at hw

end Sys2Proof.Machine
end

section
/-! PROOFS. The wire bytes of a begin (R84, R103, R195): its events are those of one session, and they latch the four
init nibbles and then the nibbles of its five commands. -/

namespace Sys2Proof.Machine

/-- The events are those of acknowledged transfers and acquisitions, and waits. -/
def AllAcked (evs : List Event) : Prop :=
  ∀ e ∈ evs, e = .busInit .ack ∨ (∃ a v, e = .write a v .ack) ∨ ∃ us, e = .wait us

theorem allAcked_append {xs ys : List Event} : AllAcked (xs ++ ys) ↔ AllAcked xs ∧ AllAcked ys :=
  List.forall_mem_append

theorem allAcked_wait (us : Nat) : AllAcked [.wait us] := by simp [AllAcked]

theorem nibbleEvents_allAcked (a : BusAddr) (n8 bl : Byte) : AllAcked (nibbleEvents a n8 bl) := by
  simp [AllAcked, nibbleEvents]

theorem byteEvents_allAcked (a : BusAddr) (v mode bl : Byte) : AllAcked (byteEvents a v mode bl) :=
  allAcked_append.2 ⟨nibbleEvents_allAcked a _ bl, nibbleEvents_allAcked a _ bl⟩

theorem beginEvents_allAcked (a : BusAddr) (f bl : Byte) : AllAcked (beginEvents a f bl) := by
  have hwake : AllAcked [.busInit .ack, .wait 40000, .write a (0x00 ||| bl) .ack, .wait 1000000] := by simp [AllAcked]
  simp only [beginEvents, allAcked_append, hwake, allAcked_wait, nibbleEvents_allAcked, byteEvents_allAcked, and_self]

/-- Such events join the session they happen in (R195). -/
theorem foldl_sessionStep_acked {evs : List Event} (h : AllAcked evs) (done : Bool) (pre : List Event) :
    evs.foldl sessionStep (some (done, pre)) = some (done, pre ++ evs) := by
  induction evs generalizing pre with
  | nil => simp
  | cons e evs ih =>
    obtain ⟨he, hevs⟩ := List.forall_mem_cons.1 h
    have hstep : sessionStep (some (done, pre)) e = some (done, pre ++ [e]) := by
      obtain rfl | ⟨a, v, rfl⟩ | ⟨us, rfl⟩ := he <;> rfl
    rw [List.foldl_cons, hstep, ih hevs, List.append_assoc, List.singleton_append]

/-- A begin whose events are all acknowledged and that completes is the session its trace ends in. -/
theorem session_begin {evs : List Event} (tr : List Event) (h : AllAcked evs) :
    session (tr ++ [.accept .begin] ++ evs ++ [.complete .ok]) = some (true, evs ++ [.complete .ok]) := by
  have hstart : (tr ++ [Event.accept .begin]).foldl sessionStep none = some (false, []) := by
    rw [List.foldl_append]
    rfl
  rw [session, List.foldl_append, List.foldl_append, hstart, foldl_sessionStep_acked h]
  rfl

/-- A command's byte transfer latches its two nibbles, whatever events follow. -/
theorem latches_commandEvents {bl : Byte} (a : BusAddr) (v : Byte) (evs : List Event) (hbl : bl = 0x08 ∨ bl = 0x00) :
    latches (byteEvents a v 0x00 bl ++ evs) =
      { rs := false, d := v.extractLsb' 4 4 } :: { rs := false, d := v.extractLsb' 0 4 } :: latches evs :=
  latches_byteEvents a v .command evs hbl

theorem latches_wake {bl : Byte} (a : BusAddr) (evs : List Event) (hbl : bl = 0x08 ∨ bl = 0x00) :
    latches ([.busInit .ack, .wait 40000, .write a (0x00 ||| bl) .ack, .wait 1000000] ++ evs) = latches evs := by
  have hlow : enHigh (0x00 ||| bl) = false := by obtain rfl | rfl := hbl <;> rfl
  exact latches_enLow a (.wait 1000000 :: evs) hlow

/-- The two latches of each command of a list, high nibble first. -/
def commandLatches : List Byte → List Latch
  | [] => []
  | v :: vs => { rs := false, d := v.extractLsb' 4 4 } :: { rs := false, d := v.extractLsb' 0 4 } :: commandLatches vs

theorem pairUp_commandLatches (vs : List Byte) :
    pairUp (commandLatches vs) = vs.map fun v => { rs := false, value := v } := by
  induction vs with
  | nil => rfl
  | cons v vs ih => rw [commandLatches, pairUp_nibbles, ih, List.map_cons]

/-- What a begin latches: the init nibbles 3, 3, 3, 2, then its five commands (R103). -/
theorem latches_beginEvents {bl : Byte} (a : BusAddr) (f : Byte) (hbl : bl = 0x08 ∨ bl = 0x00) :
    latches (beginEvents a f bl ++ [.complete .ok]) =
      [latchOf 0x30, latchOf 0x30, latchOf 0x30, latchOf 0x20] ++
        commandLatches [0x20 ||| f, 0x0C, 0x01, 0x06, 0x02] := by
  have h30 : enHigh 0x30 = false := rfl
  have h20 : enHigh 0x20 = false := rfl
  simp only [beginEvents, List.append_assoc]
  rw [latches_wake a _ hbl, latches_nibbleEvents a _ hbl h30, List.singleton_append, latches_wait,
    latches_nibbleEvents a _ hbl h30, List.singleton_append, latches_wait,
    latches_nibbleEvents a _ hbl h30, List.singleton_append, latches_wait,
    latches_nibbleEvents a _ hbl h20, latches_commandEvents a _ _ hbl, latches_commandEvents a _ _ hbl,
    latches_commandEvents a _ _ hbl, List.singleton_append, latches_wait, latches_commandEvents a _ _ hbl,
    latches_commandEvents a _ _ hbl]
  rfl

/-- Settles O56: the session is the begin, and its latches but the first four pair to the five commands. -/
theorem beginPutsFiveCommandsOnTheWire : Obligations.BeginPutsFiveCommandsOnTheWire := by
  intro tr a f bl hbl
  have hdrop : ∀ ls, ([latchOf 0x30, latchOf 0x30, latchOf 0x30, latchOf 0x20] ++ ls).drop 4 = ls := fun _ => rfl
  simp only [wireBytes, session_begin tr (beginEvents_allAcked a f bl)]
  rw [latches_beginEvents a f hbl, hdrop, pairUp_commandLatches]

end Sys2Proof.Machine
end

section
/-! PROOFS. The text form of the requests (R85; log entry 22): the writer's numbers, words, operand lists and texts, each
read back by the parser, and with them the lines of the requests. -/

namespace Sys2Proof.Text

/-! ### Spaces -/

/-- The characters start and end with one that is no space. -/
def Trimmed (cs : List Char) : Prop := (∃ c, cs.head? = some c ∧ c ≠ ' ') ∧ ∃ c, cs.getLast? = some c ∧ c ≠ ' '

theorem dropSpaces_eq_self {cs : List Char} (h : ∃ c, cs.head? = some c ∧ c ≠ ' ') : dropSpaces cs = cs := by
  obtain ⟨c, hc, hne⟩ := h
  obtain ⟨rest, rfl⟩ := List.head?_eq_some_iff.1 hc
  simp [dropSpaces, hne]

theorem trim_eq_self {cs : List Char} (h : Trimmed cs) : trim cs = cs := by
  obtain ⟨hhead, hlast⟩ := h
  rw [trim, dropSpaces_eq_self hhead, dropSpaces_eq_self (List.head?_reverse ▸ hlast), List.reverse_reverse]

theorem trim_space (cs : List Char) : trim (' ' :: cs) = trim cs := rfl

theorem Trimmed.join {xs ys : List Char} (hx : Trimmed xs) (between : List Char) (hy : Trimmed ys) :
    Trimmed (xs ++ between ++ ys) := by
  obtain ⟨⟨c, hc, hne⟩, -⟩ := hx
  obtain ⟨-, d, hd, hne'⟩ := hy
  exact ⟨⟨c, by simp [List.head?_append, hc], hne⟩, d, by simp [List.getLast?_append, hd], hne'⟩

/-! ### Words -/

/-- A word: at least one character, no space and no comma. -/
abbrev IsWord (cs : List Char) : Prop := cs ≠ [] ∧ ∀ c ∈ cs, c ≠ ' ' ∧ c ≠ ','

theorem IsWord.append {xs ys : List Char} (hx : IsWord xs) (hy : IsWord ys) : IsWord (xs ++ ys) :=
  ⟨List.append_ne_nil_of_left_ne_nil hx.1 ys, List.forall_mem_append.2 ⟨hx.2, hy.2⟩⟩

theorem IsWord.trimmed {cs : List Char} (h : IsWord cs) : Trimmed cs := by
  obtain ⟨hne, hall⟩ := h
  exact ⟨⟨_, List.head?_eq_some_head hne, (hall _ (List.head_mem hne)).1⟩,
    _, List.getLast?_eq_some_getLast hne, (hall _ (List.getLast_mem hne)).1⟩

theorem IsWord.comma_notMem {cs : List Char} (h : IsWord cs) : ',' ∉ cs := fun hmem => (h.2 ',' hmem).2 rfl

/-- A line is a word, its name, and what follows the space after it. -/
theorem parse_named {name rest : List Char} (hname : IsWord name) (hrest : Trimmed rest) :
    parse (name ++ ' ' :: rest) = parseNamed name rest := by
  have hline : trim (name ++ ' ' :: rest) = name ++ ' ' :: rest := by
    have hjoin := hname.trimmed.join [' '] hrest
    rw [List.append_assoc] at hjoin
    exact trim_eq_self hjoin
  have hchars : ∀ c ∈ name, decide (c ≠ ' ') = true := fun c hc => decide_eq_true (hname.2 c hc).1
  simp only [parse, hline, List.takeWhile_append_of_pos hchars, List.dropWhile_append_of_pos hchars]
  rw [List.takeWhile_cons_of_neg (by decide), List.dropWhile_cons_of_neg (by decide), List.append_nil, trim_space,
    trim_eq_self hrest]

/-! ### Operand lists -/

theorem splitOn_eq_cons (sep : Char) (cs : List Char) : ∃ part parts, splitOn sep cs = part :: parts := by
  cases cs with
  | nil => exact ⟨[], [], rfl⟩
  | cons c rest =>
    rw [splitOn]
    split
    · split <;> exact ⟨_, _, rfl⟩
    · exact ⟨_, _, rfl⟩

theorem splitOn_of_notMem {sep : Char} {w : List Char} (h : sep ∉ w) : splitOn sep w = [w] := by
  induction w with
  | nil => rfl
  | cons c w ih =>
    obtain ⟨hc, hw⟩ : sep ≠ c ∧ sep ∉ w := by simpa using h
    simp [splitOn, ih hw, Ne.symm hc]

theorem splitOn_append {sep : Char} {w : List Char} (cs : List Char) (h : sep ∉ w) :
    splitOn sep (w ++ sep :: cs) = w :: splitOn sep cs := by
  induction w with
  | nil =>
    obtain ⟨part, parts, hsplit⟩ := splitOn_eq_cons sep cs
    simp [splitOn, hsplit]
  | cons c w ih =>
    obtain ⟨hc, hw⟩ : sep ≠ c ∧ sep ∉ w := by simpa using h
    simp [splitOn, ih hw, Ne.symm hc]

/-- The space after a comma is dropped. -/
theorem operands_space (cs : List Char) : operands (' ' :: cs) = operands cs := by
  obtain ⟨part, parts, hsplit⟩ := splitOn_eq_cons ',' cs
  simp [operands, splitOn, hsplit, trim_space]

/-- Words written with commas between them, as the writer puts them. -/
def commas (ws : List (List Char)) : List Char := List.intercalate ", ".toList ws

theorem commas_cons {ws : List (List Char)} (w : List Char) (h : ws ≠ []) :
    commas (w :: ws) = w ++ ", ".toList ++ commas ws :=
  List.intercalate_cons_of_ne_nil h

theorem commas_trimmed {ws : List (List Char)} (hne : ws ≠ []) (h : ∀ w ∈ ws, IsWord w) : Trimmed (commas ws) := by
  induction ws with
  | nil => exact absurd rfl hne
  | cons w ws ih =>
    obtain ⟨hw, hws⟩ := List.forall_mem_cons.1 h
    rcases eq_or_ne ws [] with rfl | hnil
    · rw [commas, List.intercalate_singleton]
      exact hw.trimmed
    · rw [commas_cons w hnil]
      exact hw.trimmed.join _ (ih hnil hws)

theorem operands_commas {ws : List (List Char)} (hne : ws ≠ []) (h : ∀ w ∈ ws, IsWord w) :
    operands (commas ws) = ws := by
  induction ws with
  | nil => exact absurd rfl hne
  | cons w ws ih =>
    obtain ⟨hw, hws⟩ := List.forall_mem_cons.1 h
    rcases eq_or_ne ws [] with rfl | hnil
    · rw [commas, List.intercalate_singleton, operands, splitOn_of_notMem hw.comma_notMem, List.map_singleton,
        trim_eq_self hw.trimmed]
    · have hsplit : operands (commas (w :: ws)) = trim w :: operands (' ' :: commas ws) := by
        rw [commas_cons w hnil, List.append_assoc, operands]
        exact congrArg (List.map trim) (splitOn_append (' ' :: commas ws) hw.comma_notMem)
      rw [hsplit, trim_eq_self hw.trimmed, operands_space, ih hnil hws]

/-- A line of a request whose operands are words with commas between them is read by the reader of those words. -/
theorem parse_commas {name : List Char} {ws : List (List Char)} {read : List (List Char) → Option Instr}
    (hname : IsWord name) (hread : ∀ rest, parseNamed name rest = read (operands rest)) (hne : ws ≠ [])
    (h : ∀ w ∈ ws, IsWord w) : parse (name ++ ' ' :: commas ws) = read ws := by
  rw [parse_named hname (commas_trimmed hne h), hread, operands_commas hne h]

/-! ### Numbers -/

theorem hexVal_hexDigit {n : Nat} (h : n < 16) : hexVal (hexDigit n) = some n := by
  revert n
  decide

theorem hexDigit_ne {n : Nat} (h : n < 16) : hexDigit n ≠ ' ' ∧ hexDigit n ≠ ',' := by
  revert n
  decide

theorem digits_hex2 {n : Nat} (h : n < 256) : digits 16 0 (hex2 n) = some n := by
  have hhigh : n / 16 < 16 := by omega
  have hlow : n % 16 < 16 := by omega
  have hsum : n / 16 * 16 + n % 16 = n := Nat.div_add_mod' n 16
  simp [hex2, digits, hexVal_hexDigit hhigh, hexVal_hexDigit hlow, hhigh, hlow, hsum]

theorem toNat_lt_256 {w : Nat} (hw : w ≤ 8) (v : BitVec w) : v.toNat < 256 :=
  Nat.lt_of_lt_of_le v.isLt (Nat.pow_le_pow_right (by decide) hw)

theorem field_hexByte {w : Nat} (hw : w ≤ 8) (v : BitVec w) : field w (hexByte v) = some v := by
  have hnumber : number (hexByte v) = some v.toNat := digits_hex2 (toNat_lt_256 hw v)
  simp [field, hnumber, v.isLt]

theorem hexByte_isWord {w : Nat} (hw : w ≤ 8) (v : BitVec w) : IsWord (hexByte v) := by
  have hlt := toNat_lt_256 hw v
  have hhigh := hexDigit_ne (n := v.toNat / 16) (by omega)
  have hlow := hexDigit_ne (n := v.toNat % 16) (by omega)
  simp [IsWord, hexByte, hex2, hhigh, hlow]

theorem after_append (word cs : List Char) : after word (word ++ cs) = some cs := by
  induction word with
  | nil => rfl
  | cons k word ih => simp [after, ih]

/-! ### Texts -/

/-- Each byte of a text reads back from its `\xNN`, up to the closing quote. -/
theorem textBytes_textChars (bytes : List Byte) : textBytes (textChars bytes ++ ['"']) = some bytes := by
  induction bytes with
  | nil => rfl
  | cons b rest ih =>
    have hlt := b.isLt
    have hbyte : BitVec.ofNat 8 (16 * (b.toNat / 16) + b.toNat % 16) = b := by
      rw [Nat.div_add_mod, BitVec.ofNat_toNat, BitVec.setWidth_eq]
    simp only [textChars, hex2, List.cons_append, List.nil_append]
    rw [textBytes, hexVal_hexDigit (by omega), hexVal_hexDigit (by omega), ih]
    exact congrArg (fun x => some (x :: rest)) hbyte

/-! ### Lines -/

/-- `5x8` or `5x10`. -/
def charSizeChars : CharSize → List Char
  | .dots5x8 => "5x8".toList
  | .dots5x10 => "5x10".toList

/-- The operands of an init line. -/
def initWords (addr : BusAddr) (cols rows : Byte) (cs : CharSize) : List (List Char) :=
  ["addr=".toList ++ hexByte addr, "cols=".toList ++ hexByte cols, "rows=".toList ++ hexByte rows,
    "charsize=".toList ++ charSizeChars cs]

theorem render_init (addr : BusAddr) (cols rows : Byte) (cs : CharSize) :
    render (.init addr cols rows cs) = some ("init".toList ++ ' ' :: commas (initWords addr cols rows cs)) := by
  cases cs <;> simp [render, commas, initWords, charSizeChars, List.intercalate_cons_cons]

theorem initWords_isWord (addr : BusAddr) (cols rows : Byte) (cs : CharSize) :
    ∀ w ∈ initWords addr cols rows cs, IsWord w := by
  have hsize : IsWord ("charsize=".toList ++ charSizeChars cs) := by
    cases cs <;> simp [IsWord, charSizeChars]
  have hkey {w : Nat} (key : List Char) (hk : IsWord key) (hw : w ≤ 8) (v : BitVec w) : IsWord (key ++ hexByte v) :=
    hk.append (hexByte_isWord hw v)
  simp only [initWords, List.forall_mem_cons, List.not_mem_nil, false_imp_iff, implies_true, and_true]
  exact ⟨hkey _ (by simp [IsWord]) (by decide) addr, hkey _ (by simp [IsWord]) (by decide) cols,
    hkey _ (by simp [IsWord]) (by decide) rows, hsize⟩

theorem parseInit_initWords (addr : BusAddr) (cols rows : Byte) (cs : CharSize) :
    parseInit (initWords addr cols rows cs) = some (.init addr cols rows cs) := by
  simp only [initWords, parseInit, after_append, Option.bind_some, field_hexByte (w := 7) (by decide),
    field_hexByte (w := 8) (by decide)]
  cases cs <;> rfl

theorem parse_init (addr : BusAddr) (cols rows : Byte) (cs : CharSize) :
    parse ("init".toList ++ ' ' :: commas (initWords addr cols rows cs)) = some (.init addr cols rows cs) := by
  rw [parse_commas (read := parseInit) (by simp [IsWord]) (fun _ => rfl) (by simp [initWords])
    (initWords_isWord addr cols rows cs), parseInit_initWords]

/-- The operands of a defineGlyph line: the slot, and the pattern in brackets. -/
def glyphWords (slot : BitVec 3) (p : Glyph) : List (List Char) :=
  [hexByte slot, '[' :: hexByte p.p0, hexByte p.p1, hexByte p.p2, hexByte p.p3, hexByte p.p4, hexByte p.p5,
    hexByte p.p6, hexByte p.p7 ++ [']']]

theorem render_defineGlyph (slot : BitVec 3) (p : Glyph) :
    render (.defineGlyph slot p) = some ("defineGlyph".toList ++ ' ' :: commas (glyphWords slot p)) := by
  simp [render, glyphChars, commas, glyphWords, List.intercalate_cons_cons]

theorem glyphWords_isWord (slot : BitVec 3) (p : Glyph) : ∀ w ∈ glyphWords slot p, IsWord w := by
  have hbyte := hexByte_isWord (w := 8) (by decide)
  have hopen : IsWord ('[' :: hexByte p.p0) := IsWord.append (xs := ['[']) (by simp [IsWord]) (hbyte p.p0)
  have hclose : IsWord (hexByte p.p7 ++ [']']) := (hbyte p.p7).append (by simp [IsWord])
  simp only [glyphWords, List.forall_mem_cons, List.not_mem_nil, false_imp_iff, implies_true, and_true]
  exact ⟨hexByte_isWord (by decide) slot, hopen, hbyte _, hbyte _, hbyte _, hbyte _, hbyte _, hbyte _, hclose⟩

theorem parseGlyph_glyphWords (slot : BitVec 3) (p : Glyph) :
    parseGlyph (glyphWords slot p) = some (.defineGlyph slot p) := by
  have hlast : (after "]".toList (hexByte p.p7 ++ [']']).reverse).map List.reverse = some (hexByte p.p7) := by
    rw [List.reverse_append]
    exact (congrArg (Option.map List.reverse) (after_append [']'] _)).trans
      (congrArg some (List.reverse_reverse _))
  have htrim (v : Byte) : trim (hexByte v) = hexByte v := trim_eq_self (hexByte_isWord (by decide) v).trimmed
  simp only [glyphWords, parseGlyph, hlast, htrim, field_hexByte (w := 3) (by decide),
    field_hexByte (w := 8) (by decide), Option.bind_eq_bind, Option.bind_some]
  rfl

theorem parse_defineGlyph (slot : BitVec 3) (p : Glyph) :
    parse ("defineGlyph".toList ++ ' ' :: commas (glyphWords slot p)) = some (.defineGlyph slot p) := by
  rw [parse_commas (read := parseGlyph) (by simp [IsWord]) (fun _ => rfl) (by simp [glyphWords])
    (glyphWords_isWord slot p), parseGlyph_glyphWords]

theorem parse_setCursorPosition (col row : Byte) :
    parse ("setCursorPosition".toList ++ ' ' :: commas [hexByte col, hexByte row]) =
      some (.setCursorPosition col row) := by
  have hbyte := hexByte_isWord (w := 8) (by decide)
  have hwords : ∀ w ∈ [hexByte col, hexByte row], IsWord w :=
    List.forall_mem_cons.2 ⟨hbyte col, List.forall_mem_singleton.2 (hbyte row)⟩
  rw [parse_commas (read := parsePosition) (by simp [IsWord]) (fun _ => rfl) (List.cons_ne_nil _ _) hwords]
  simp [parsePosition, field_hexByte (w := 8) (by decide)]

theorem parse_writeChar (byte : Byte) :
    parse ("writeChar".toList ++ ' ' :: hexByte byte) = some (.writeChar byte) := by
  have hword := hexByte_isWord (w := 8) (by decide) byte
  rw [parse_named (by simp [IsWord]) hword.trimmed]
  exact congrArg (Option.map Instr.writeChar) (field_hexByte (by decide) byte)

theorem parse_writeText (bytes : List Byte) :
    parse ("writeText".toList ++ ' ' :: '"' :: (textChars bytes ++ ['"'])) = some (.writeText bytes) := by
  have hquote : Trimmed ['"'] := IsWord.trimmed (by simp [IsWord])
  have hline := parse_named (name := "writeText".toList) (by simp [IsWord]) (hquote.join (textChars bytes) hquote)
  exact hline.trans (congrArg (Option.map Instr.writeText) (textBytes_textChars bytes))

/-- Every line the writer writes is read as the request it was written for (R85). -/
theorem parse_render {i : Instr} {line : List Char} (h : render i = some line) : parse line = some i := by
  cases i with
  | init addr cols rows cs =>
    obtain rfl := Option.some.inj ((render_init addr cols rows cs).symm.trans h)
    exact parse_init addr cols rows cs
  | begin | clear | home =>
    obtain rfl := Option.some.inj h
    rfl
  | setDisplay on | setCursor on | setBlink on | setEntryDirection on | setAutoscroll on | setBacklight on =>
    obtain rfl := Option.some.inj h
    cases on <;> rfl
  | scroll dir =>
    obtain rfl := Option.some.inj h
    cases dir <;> rfl
  | setCursorPosition col row =>
    obtain rfl := Option.some.inj h
    exact parse_setCursorPosition col row
  | defineGlyph slot p =>
    obtain rfl := Option.some.inj ((render_defineGlyph slot p).symm.trans h)
    exact parse_defineGlyph slot p
  | writeChar byte =>
    obtain rfl := Option.some.inj h
    exact parse_writeChar byte
  | writeText bytes =>
    obtain rfl := Option.some.inj h
    exact parse_writeText bytes
  | w | t | b | set | pulseNibble | sendByte => cases h

/-- Settles O7: each operand reads back from what the writer made of it, and the line from its operands. -/
theorem textSyntaxRoundTrip : Obligations.TextSyntaxRoundTrip :=
  fun _ _ => parse_render

end Sys2Proof.Text
end

section
/-! PROOFS. The three ends of init (R100–R102, R182), and the two of a bus operation (R183, R185, R192). -/

namespace Sys2Proof.Machine

/-! ### init -/

theorem State.refuse_eq (s : State) (why : RefuseReason) :
    s.refuse why = { s with refusal := some (s.refusal.getD why) } := by
  rw [State.refuse]
  cases s.refusal <;> rfl

/-- FUNC as the statements write it: the 4-bit bus adds no bit (R101). -/
theorem funcFlags_eq (r : Byte) (z : CharSize) : funcFlags r z =
    (if r.toNat > 1 then 0x08 else 0x00) ||| (if z = .dots5x10 ∧ r.toNat = 1 then 0x04 else 0x00) := by
  have hbus : Config.fn4BitMode = 0#8 := rfl
  rw [funcFlags, hbus, BitVec.zero_or]
  rfl

theorem configProblem_of_ne_zero {c r : Byte} (hc : c ≠ 0) (hr : r ≠ 0) : configProblem c r = none := by
  rw [configProblem, if_neg hc, if_neg hr]

/-- The first zero field in the order cols, rows (R102). -/
theorem configProblem_of_zero {c r : Byte} (h : c = 0 ∨ r = 0) :
    configProblem c r = some (if c = 0 then .cols else .rows) := by
  by_cases hc : c = 0
  · rw [configProblem, if_pos hc, if_pos hc]
  · rw [configProblem, if_neg hc, if_pos (h.resolve_left hc), if_neg hc]

section
variable {s : State} (a : BusAddr) {c r : Byte} (z : CharSize)

theorem exec_init_ok (hb : s.busy = false) (hp : s.phase = .unconfigured) (h : configProblem c r = none) :
    exec (.init a c r z) s = .next (((s.emit (.accept (.init a c r z))).configure a c r z).report .ok) := by
  simp [exec, execInit, hb, hp, h]

theorem exec_init_configError {f : ConfigField} (hb : s.busy = false) (hp : s.phase = .unconfigured)
    (h : configProblem c r = some f) :
    exec (.init a c r z) s = .next ((s.emit (.accept (.init a c r z))).report (.configError f)) := by
  simp [exec, execInit, hb, hp, h]

theorem exec_init_refused (hb : s.busy = false) (hp : s.phase ≠ .unconfigured) :
    exec (.init a c r z) s = .next (s.refuse .alreadyConfigured) := by
  cases hphase : s.phase with
  | unconfigured => exact absurd hphase hp
  | configured | ready => simp [exec, execInit, hb, hphase]

end

/-- Settles O15: the three ends of an init taken by an idle block. -/
theorem initIsOneAtomicStep : Obligations.InitIsOneAtomicStep := by
  refine fun s a c r z => ⟨rfl, fun hb => ⟨fun hp hc hr => ?_, fun hp h => ?_, fun hp => ?_⟩⟩
  · rw [exec_init_ok a z hb hp (configProblem_of_ne_zero hc hr), ← funcFlags_eq]
    simp [State.emit, State.configure, State.report, Config.blBit]
  · rw [exec_init_configError a z hb hp (configProblem_of_zero h)]
    simp [State.emit, State.report]
  · rw [exec_init_refused a z hb hp, State.refuse_eq]

/-! ### A bus operation -/

/-- Settles O29: the write's end with an error, by `busWrite_err`. -/
theorem expanderWriteFailureAborts : Obligations.ExpanderWriteFailureAborts := by
  intro s x v bl a kind hx hbl ha hd
  have hw : exec (.w x) s = (microW x s).answer := rfl
  rw [hw, microW_ok hx hbl ha, busWrite_err a _ hd]
  simp [MicroOutcome.answer, State.abort, ite_isBegin]

/-- Settles O32: the two ends of the acquisition, by `busInit_ack` and `busInit_err`. -/
theorem busAcquisitionAdvancesOrAborts : Obligations.BusAcquisitionAdvancesOrAborts := by
  have hexec (s : State) : exec .b s = (busInit s).answer := rfl
  refine ⟨fun s hd => ?_, fun s kind hd => ?_⟩
  · rw [hexec, busInit_ack hd]
    simp [MicroOutcome.answer, State.emit, State.advance]
  · rw [hexec, busInit_err hd]
    simp [MicroOutcome.answer, State.emit, State.abort, ite_isBegin]

end Sys2Proof.Machine
end

section
/-! PROOFS. The power-up sequence (R103–R117, R243): begin's transfers and waits put together from its eleven steps, and
init and then begin from the host's list. -/

namespace Sys2Proof.Machine

/-! ### Transfers and waits in a row -/

/-- With the registers of `s`, and from any point of a micro-program, the micro-operations `ms` do `n` acknowledged bus
operations with the events `evs`, leave the expander at `out` and write no register. -/
def State.Transfers (s : State) (ms : List Uop) (n : Nat) (evs : List Event) (out : ExpOut) : Prop :=
  ∀ n₀ evs₀ out₀ k₀, (s.afterDraws n₀).nextAcks n →
    microRun ms (s.did n₀ evs₀ out₀ k₀) = .advanced (s.did (n₀ + n) (evs₀ ++ evs) out (k₀ + ms.length))

section
variable {s : State} {ms ms' : List Uop} {n n' : Nat} {evs evs' : List Event} {out out' : ExpOut} {a : BusAddr}
  {bl : Byte}

theorem State.Transfers.append (h : s.Transfers ms n evs out) (h' : s.Transfers ms' n' evs' out') :
    s.Transfers (ms ++ ms') (n + n') (evs ++ evs') out' := by
  intro n₀ evs₀ out₀ k₀ hd
  obtain ⟨hfirst, hrest⟩ := (nextAcks_add n n' _).1 hd
  rw [← afterDraws_add] at hrest
  rw [microRun_append (h _ _ _ _ hfirst), h' _ _ _ _ hrest, List.length_append, List.append_assoc, Nat.add_assoc,
    Nat.add_assoc]

theorem State.Transfers.wait (h : s.Transfers ms n evs out) (us : Nat) :
    s.Transfers (ms ++ [.t us]) n (evs ++ [.wait us]) out := by
  intro n₀ evs₀ out₀ k₀ hd
  rw [microRun_append (h _ _ _ _ hd), microRun, micro_t_did, did_did, List.length_append, List.append_assoc]
  rfl

theorem transfers_nibble {x : Expr} {n8 : Byte} (hx : evalExpr s x = .ok n8) (hb : s.bl = some bl)
    (ha : s.cfgAddr = some a) :
    s.Transfers (nibbleProg x) 3 (nibbleEvents a n8 bl) (.known (n8 &&& 0xFB ||| bl)) := by
  intro n₀ evs₀ out₀ k₀ hd
  rw [microRun_nibble ((did_evalExpr ..).trans hx) hb ha ((did_nextAcks ..).2 hd), did_did]
  rfl

theorem transfers_cmd {v : Expr} {v8 : Byte} (hv : evalExpr s v = .ok v8) (hb : s.bl = some bl)
    (ha : s.cfgAddr = some a) :
    s.Transfers (cmd v) 6 (byteEvents a v8 0x00 bl) (.known (restByte v8 0x00 bl)) := by
  intro n₀ evs₀ out₀ k₀ hd
  rw [cmd, microRun_byte .command ((did_evalExpr ..).trans hv) hb ha ((did_nextAcks ..).2 hd), did_did]
  rfl

/-- A `SET` writes its register whatever has been done before it. -/
theorem did_setFlag_advance (s : State) (n : Nat) (evs : List Event) (out : ExpOut) (k : Nat) (x : SetReg) (v : Byte) :
    ((s.did n evs out k).setFlag x v).advance = (s.setFlag x v).did n evs out (k + 1) := by
  obtain ⟨hscript, hdraws⟩ := afterDraws_script_congr (n := n) (s := s) (t := s.setFlag x v) (by simp) (by simp)
  rw [State.did, State.did, hscript, hdraws]
  cases x <;> rfl

theorem setFlag_afterDraws_nextAcks (s : State) (x : SetReg) (v : Byte) (k n : Nat) :
    ((s.setFlag x v).afterDraws k).nextAcks n ↔ (s.afterDraws k).nextAcks n := by
  obtain ⟨hscript, hdraws⟩ := afterDraws_script_congr (n := k) (s := s) (t := s.setFlag x v) (by simp) (by simp)
  exact nextAcks_congr hscript hdraws

/-- A `SET` and then transfers, which are made with the register it wrote (R111, R113, R186). -/
theorem microRun_set_transfers {x : SetReg} {e : Expr} {v : Byte} {n₀ : Nat} (evs₀ : List Event) (out₀ : ExpOut)
    (k₀ : Nat) (he : evalExpr s e = .ok v) (h : (s.setFlag x v).Transfers ms n evs out)
    (hd : (s.afterDraws n₀).nextAcks n) :
    microRun (.set x e :: ms) (s.did n₀ evs₀ out₀ k₀) =
      .advanced ((s.setFlag x v).did (n₀ + n) (evs₀ ++ evs) out (k₀ + (ms.length + 1))) := by
  have hset : micro (.set x e) (s.did n₀ evs₀ out₀ k₀) = .advanced ((s.setFlag x v).did n₀ evs₀ out₀ (k₀ + 1)) := by
    rw [← did_setFlag_advance]
    exact microSet_ok ((did_evalExpr ..).trans he)
  rw [microRun, hset]
  exact (h _ _ _ _ ((setFlag_afterDraws_nextAcks ..).2 hd)).trans (by rw [Nat.add_right_comm, Nat.add_assoc])

/-! ### The steps of begin -/

theorem micro_b_did (hd : s.nextAcks 1) : micro .b s = .advanced (s.did 1 [.busInit .ack] s.expOut 1) := by
  have hb : micro .b s = busInit s := rfl
  rw [did_eq, hb, busInit_ack hd.1]
  simp [State.emit, State.advance, State.afterDraws]

/-- Steps 1 to 4 (R104–R107). -/
theorem transfers_beginWake (hb : s.bl = some bl) (ha : s.cfgAddr = some a) :
    s.Transfers beginWake 2 [.busInit .ack, .wait 40000, .write a (0x00 ||| bl) .ack, .wait 1000000]
      (.known (0x00 ||| bl)) := by
  intro n₀ evs₀ out₀ k₀ hd
  obtain ⟨hinit, hwrite⟩ := (nextAcks_add 1 1 _).1 hd
  rw [← afterDraws_add] at hwrite
  simp only [beginWake, microRun]
  rw [micro_b_did ((did_nextAcks ..).2 hinit), did_did]
  dsimp only
  rw [micro_t_did, did_did]
  dsimp only
  rw [micro_w_did (s := s.did ..) (v := 0x00) (bl := bl) (a := a) rfl hb ha ((did_nextAcks ..).2 hwrite), did_did]
  dsimp only
  rw [micro_t_did, did_did]
  simp only [List.append_assoc]
  rfl

/-- Step 5 (R108). -/
theorem transfers_beginForce (hb : s.bl = some bl) (ha : s.cfgAddr = some a) :
    s.Transfers beginForce 9
      (nibbleEvents a 0x30 bl ++ [.wait 4500] ++ nibbleEvents a 0x30 bl ++ [.wait 4500] ++ nibbleEvents a 0x30 bl
        ++ [.wait 150]) (.known (0x30 ||| bl)) :=
  have hnibble : s.Transfers (nibbleProg (.lit Config.initNibble3)) 3 (nibbleEvents a 0x30 bl) (.known (0x30 ||| bl)) :=
    transfers_nibble rfl hb ha
  ((((hnibble.wait _).append hnibble).wait _).append hnibble).wait _

/-- Steps 1 to 7, before any register is written (R104–R110). -/
theorem transfers_beginStart {f : Byte} (hb : s.bl = some bl) (ha : s.cfgAddr = some a) (hf : s.func = some f) :
    s.Transfers (beginWake ++ beginForce ++ beginCommit ++ beginFunction) 20
      ([.busInit .ack, .wait 40000, .write a (0x00 ||| bl) .ack, .wait 1000000]
        ++ (nibbleEvents a 0x30 bl ++ [.wait 4500] ++ nibbleEvents a 0x30 bl ++ [.wait 4500] ++ nibbleEvents a 0x30 bl
          ++ [.wait 150])
        ++ nibbleEvents a 0x20 bl ++ byteEvents a (0x20 ||| f) 0x00 bl)
      (.known (restByte (0x20 ||| f) 0x00 bl)) := by
  have hcommit : s.Transfers beginCommit 3 (nibbleEvents a 0x20 bl) _ := transfers_nibble rfl hb ha
  have hfunc : evalExpr s (.or (.lit Config.functionSet) (.reg .func)) = .ok (0x20 ||| f) := by
    simp [evalExpr, readFlag, need, hf, Config.functionSet]
  exact (((transfers_beginWake hb ha).append (transfers_beginForce hb ha)).append hcommit).append
    (transfers_cmd hfunc hb ha)

/-- A command that carries a register just set, and then a command with its long wait (R111–R114). -/
theorem transfers_base_setFlag {x : SetReg} {v v8 : Byte} (base : Byte) (hb : (s.setFlag x v).bl = some bl)
    (ha : s.cfgAddr = some a) :
    (s.setFlag x v).Transfers
      (cmd (.or (.lit base) (.reg x.toFlagReg)) ++ (cmd (.lit v8) ++ [.t Config.longCommandUs])) 12
      (byteEvents a (base ||| v) 0x00 bl ++ (byteEvents a v8 0x00 bl ++ [.wait 2000]))
      (.known (restByte v8 0x00 bl)) := by
  have ha' : (s.setFlag x v).cfgAddr = some a := (State.setFlag_cfgAddr ..).trans ha
  exact (transfers_cmd (evalExpr_base_setFlag s x base v) hb ha').append ((transfers_cmd rfl hb ha').wait _)

/-- Steps 8 and 9 (R111, R112). -/
theorem microRun_beginControl {n₀ : Nat} (evs₀ : List Event) (out₀ : ExpOut) (k₀ : Nat) (hb : s.bl = some bl)
    (ha : s.cfgAddr = some a) (hd : (s.afterDraws n₀).nextAcks 12) :
    microRun (beginControl ++ progClear) (s.did n₀ evs₀ out₀ k₀) = .advanced ((s.setFlag .ctrl 0x04).did (n₀ + 12)
      (evs₀ ++ (byteEvents a 0x0C 0x00 bl ++ (byteEvents a 0x01 0x00 bl ++ [.wait 2000])))
      (.known (restByte 0x01 0x00 bl)) (k₀ + 22)) :=
  microRun_set_transfers evs₀ out₀ k₀ rfl (transfers_base_setFlag Config.displayControl hb ha) hd

/-- Steps 10 and 11 (R113, R114). -/
theorem microRun_beginEntry {n₀ : Nat} (evs₀ : List Event) (out₀ : ExpOut) (k₀ : Nat) (hb : s.bl = some bl)
    (ha : s.cfgAddr = some a) (hd : (s.afterDraws n₀).nextAcks 12) :
    microRun (beginEntry ++ progHome) (s.did n₀ evs₀ out₀ k₀) = .advanced ((s.setFlag .entry 0x02).did (n₀ + 12)
      (evs₀ ++ (byteEvents a 0x06 0x00 bl ++ (byteEvents a 0x02 0x00 bl ++ [.wait 2000])))
      (.known (restByte 0x02 0x00 bl)) (k₀ + 22)) :=
  microRun_set_transfers evs₀ out₀ k₀ rfl (transfers_base_setFlag Config.entryModeSet hb ha) hd

/-- begin's micro-operations (R103): steps 1 to 7, then those from each `SET` to the wait that follows. -/
theorem microRun_progBegin {f : Byte} (hb : s.bl = some bl) (ha : s.cfgAddr = some a) (hf : s.func = some f)
    (hd : s.nextAcks 44) :
    microRun progBegin s = .advanced (((s.setFlag .ctrl 0x04).setFlag .entry 0x02).did 44 (beginEvents a f bl)
      (.known (restByte 0x02 0x00 bl)) 81) := by
  have hparts : progBegin = (beginWake ++ beginForce ++ beginCommit ++ beginFunction) ++
      (beginControl ++ progClear) ++ (beginEntry ++ progHome) := by simp [progBegin]
  obtain ⟨hstart, hrest⟩ := (nextAcks_add 20 24 s).1 hd
  obtain ⟨hctrl, hentry⟩ := (nextAcks_add 12 12 _).1 hrest
  rw [← afterDraws_add] at hentry
  have start := transfers_beginStart hb ha hf 0 [] s.expOut 0 hstart
  rw [did_nothing] at start
  have control := (microRun_append start).trans (microRun_beginControl _ _ _ hb ha hctrl)
  have entry := (microRun_append control).trans
    (microRun_beginEntry _ _ _ hb ha ((setFlag_afterDraws_nextAcks ..).2 hentry))
  rw [hparts, entry]
  simp only [beginEvents, List.append_assoc, List.nil_append]
  rfl

end

/-! ### begin and the boot -/

/-- begin is admitted in every phase but Unconfigured (R182). -/
theorem exec_begin_accept {s : State} (hb : s.busy = false) (hp : s.phase ≠ .unconfigured) :
    exec .begin s = .next (s.accept .begin) := by
  have htake : exec .begin s = takeBegin .begin s := rfl
  cases hphase : s.phase with
  | unconfigured => exact absurd hphase hp
  | configured | ready => simp [htake, takeBegin, hb, hphase]

/-- The completion of begin, at the end of its micro-program (R115). -/
theorem finish_begin (s : State) (c e : Byte) (n : Nat) (evs : List Event) (out : ExpOut) :
    ((((s.accept .begin).setFlag .ctrl c).setFlag .entry e).did n evs out 81).finish =
      { s.completed .begin n evs out with ctrl := some c, entry := some e, phase := .ready, link := .synced } := by
  obtain ⟨hscript, hdraws⟩ := afterDraws_script_congr (n := n) (s := s)
    (t := ((s.accept .begin).setFlag .ctrl c).setFlag .entry e) rfl rfl
  rw [State.did, hscript, hdraws, State.completed, afterDraws_eq n s]
  rfl

/-- Settles O17: begin is accepted, and its micro-program runs to its end by `microRun_progBegin`. -/
theorem beginRunsThePowerUpSequence : Obligations.BeginRunsThePowerUpSequence := by
  intro s a f bl hb hp ha hf hbl hd
  have hrun := microRun_progBegin (s := s.accept .begin) hbl ha hf ((accept_nextAcks ..).2 hd)
  exact ⟨exec_begin_accept hb hp, (run_program rfl rfl rfl hrun).trans (congrArg _ (finish_begin ..))⟩

/-- Settles O53: one step takes init, and begin's 83 steps follow by `beginRunsThePowerUpSequence`. -/
theorem bootSequenceReachesReady : Obligations.BootSequenceReachesReady := by
  intro s a c r z ri rb rest hp hb hc hr hri hrb hi hd hn
  let taken : State := { s with inbox := rb :: rest }
  let u : State := ((taken.emit (.accept (.init a c r z))).configure a c r z).report .ok
  have hinit : step s = .next u := by
    rw [step_record hb hi (decode_encode hri)]
    exact exec_init_ok a z hb hp (configProblem_of_ne_zero hc hr)
  let v : State := { u with inbox := rest }
  obtain ⟨haccept, hrun⟩ := beginRunsThePowerUpSequence v a (funcFlags r z) 0x08 hb nofun rfl rfl rfl
    ((nextAcks_congr (s := s) (t := v) rfl rfl).2 hd)
  have hbegin : step u = .next (v.accept .begin) := by
    rw [step_record (s := u) hb rfl (decode_encode hrb)]
    exact haccept
  refine ⟨_, (run_succ_of_step hinit).trans ((run_succ_of_step hbegin).trans hrun), ?_⟩
  simpa [State.completed, v, u, taken, State.noRefusal, Config.blBit] using hn

end Sys2Proof.Machine
end

section
/-! PROOFS. Latches of a trace that ends with EN low (R138, R195): what follows adds its own latches. -/

namespace Sys2Proof.Machine

theorem ackWrites_append (tr evs : List Event) : ackWrites (tr ++ evs) = ackWrites tr ++ ackWrites evs := by
  induction tr with
  | nil => rfl
  | cons e tr ih =>
    cases e with
    | write a v o => cases o <;> simp [ackWrites, ih]
    | accept _ | busInit _ | wait _ | complete _ => exact ih

/-- A write latches at once if the write after it, to the same address, ends its pulse (R195 item 1). -/
theorem latchesOfWrites_cons_cons (a : BusAddr) (u v : Byte) (ws : List (BusAddr × Byte)) :
    latchesOfWrites ((a, u) :: (a, v) :: ws) =
      (if enHigh u && !enHigh v then [latchOf u] else []) ++ latchesOfWrites ((a, v) :: ws) := by
  rw [latchesOfWrites, nextWriteTo, if_pos rfl]
  cases enHigh u with
  | false => rfl
  | true => cases hv : enHigh v <;> simp [hv]

/-- After writes to one address of which the last has EN low, no pulse is open: by induction on those writes, each finds
the write after it among them. -/
theorem latchesOfWrites_append {a : BusAddr} {ws : List (BusAddr × Byte)} (ws' : List (BusAddr × Byte))
    (haddr : ∀ x ∈ ws, x.1 = a) (hlow : ∀ x, ws.getLast? = some x → enHigh x.2 = false) :
    latchesOfWrites (ws ++ ws') = latchesOfWrites ws ++ latchesOfWrites ws' := by
  induction ws with
  | nil => rfl
  | cons w ws ih =>
    obtain ⟨b, u⟩ := w
    obtain ⟨hb, htail⟩ := List.forall_mem_cons.1 haddr
    obtain rfl : b = a := hb
    cases ws with
    | nil =>
      have hu : enHigh u = false := hlow (b, u) rfl
      simp [latchesOfWrites, hu]
    | cons w ws =>
      obtain ⟨b', v⟩ := w
      obtain rfl : b' = b := (List.forall_mem_cons.1 htail).1
      rw [latchesOfWrites_cons_cons, List.append_assoc, ← ih htail hlow]
      exact latchesOfWrites_cons_cons ..

/-- Settles O57: the write has EN low, and no write before it was waiting for one. -/
theorem backlightWriteLatchesNothing : Obligations.BacklightWriteLatchesNothing := by
  intro tr a bl hbl haddr hlow
  have hen : enHigh bl = false := by obtain rfl | rfl := hbl <;> rfl
  have hnone : latches [.write a bl .ack] = [] := latches_enLow a [] hen
  rw [latches, ackWrites_append, latchesOfWrites_append _ haddr hlow]
  exact (congrArg _ hnone).trans (List.append_nil _)

end Sys2Proof.Machine
end

section
/-! PROOFS. The display commands that write no register (R130, R131, R137), and the backlight (R138):
taken, run with every bus operation acknowledged, and completed. -/

namespace Sys2Proof.Machine

/-- A request other than init and begin whose micro-program is transfers and waits, and writes no register, completes
one step after its last micro-operation (R182, R191). -/
theorem completes_of_transfers {s : State} {q : Instr} {bl : Byte} {a : BusAddr} {n : Nat} {evs : List Event}
    {out : ExpOut} (hr : s.ReadyIdle a bl) (hreq : q.reqCode.isSome) (h0 : q.reqCode ≠ some 0) (hbegin : q ≠ .begin)
    (h : (s.accept q).Transfers (expand q) n evs out) (hd : s.nextAcks n) :
    Completes q s ((expand q).length + 1) (s.completed q n evs out) := by
  have hrun := h 0 [] (s.accept q).expOut 0 ((accept_nextAcks ..).2 hd)
  rw [did_nothing, Nat.zero_add, Nat.zero_add, List.nil_append] at hrun
  exact completes_of_microRun hr hreq h0 hbegin hrun

/-- Settles O18: each is its command and the long wait. -/
theorem clearAndHomeSendTheirCommandAndWait : Obligations.ClearAndHomeSendTheirCommandAndWait := by
  intro s a bl hr hd
  have transfers (q : Instr) (v : Byte) :
      (s.accept q).Transfers (cmd (.lit v) ++ [.t 2000]) 6 (byteEvents a v 0x00 bl ++ [.wait 2000])
        (.known (restByte v 0x00 bl)) :=
    (transfers_cmd (s := s.accept q) rfl hr.backlight hr.addr).wait 2000
  exact ⟨completes_of_transfers hr rfl (by simp [Instr.reqCode]) nofun (transfers .clear 0x01) hd,
    completes_of_transfers hr rfl (by simp [Instr.reqCode]) nofun (transfers .home 0x02) hd⟩

/-- CURSOR_SHIFT with DISPLAY_MOVE, and MOVE_RIGHT or not (R137). -/
theorem scrollCmd_eq (dir : ScrollDir) : scrollCmd dir = if dir = .right then 0x1C else 0x18 := by
  cases dir <;> rfl

/-- Settles O21: the command alone. -/
theorem scrollSendsTheCursorShift : Obligations.ScrollSendsTheCursorShift := by
  intro s a bl dir hr hd
  rw [← scrollCmd_eq]
  exact completes_of_transfers hr rfl (by simp [Instr.reqCode]) nofun (transfers_cmd rfl hr.backlight hr.addr) hd

/-- The operand of the `SET` of R138. -/
theorem evalExpr_backlightUpdate (s : State) (on : Bool) :
    evalExpr s (backlightUpdate on) = .ok (if on then 0x08 else 0x00) := by
  cases on <;> rfl

/-- `SET(BL, …)` and then the write of no bits but BL's, which carries the value just set (R138, R183). -/
theorem microRun_progSetBacklight {s : State} {a : BusAddr} (on : Bool) {v : Byte}
    (hv : evalExpr s (backlightUpdate on) = .ok v) (ha : s.cfgAddr = some a) (hd : s.nextAcks 1) :
    microRun (progSetBacklight on) s =
      .advanced ((s.setFlag .bl v).advance.did 1 [.write a v .ack] (.known v) 1) := by
  have hset : micro (.set .bl (backlightUpdate on)) s = .advanced (s.setFlag .bl v).advance := microSet_ok hv
  have hwrite := micro_w_did (s := (s.setFlag .bl v).advance) (x := .lit 0x00) (bl := v) rfl rfl ha hd
  have hzero : 0x00 ||| v = v := BitVec.zero_or
  rw [hzero] at hwrite
  simp only [progSetBacklight, microRun, hset, hwrite]

/-- Settles O22: BL is set, and the one write is made with it. -/
theorem setBacklightWritesOneByte : Obligations.SetBacklightWritesOneByte := by
  intro s a old on hr hd
  have hrun := microRun_progSetBacklight (s := s.accept (.setBacklight on)) on (evalExpr_backlightUpdate _ on) hr.addr
    ((accept_nextAcks ..).2 hd)
  refine ⟨exec_readyIdle hr rfl (by simp [Instr.reqCode]), (run_program rfl rfl rfl hrun).trans ?_⟩
  exact congrArg Host.Outcome.next (finish_did_setFlag nofun rfl)

end Sys2Proof.Machine
end

section
/-! PROOFS. Cursor positioning (R160–R162): the byte of `ddram_cmd`, and its fault where the row table has no entry. -/

namespace Sys2Proof.Machine

theorem evalExpr_ddramCmd {s : State} {rows : Byte} (col row : Byte) (h : s.cfgRows = some rows) :
    evalExpr s (.ddramCmd col row) = ddramCmd rows col row := by
  simp [evalExpr, h, need]

/-- The row-offset ROM as a list (R35). -/
theorem rowOffset_eq_getElem? (n : Nat) : Config.rowOffset n = [(0x00 : Byte), 0x40, 0x14, 0x54][n]? := by
  match n with
  | 0 | 1 | 2 | 3 | _ + 4 => rfl

/-- The mask with 0x7F is the remainder by 128 (R162). -/
theorem ddramByte_eq (col off : Byte) :
    ddramByte col off = 0x80 ||| BitVec.ofNat 8 ((col.toNat + off.toNat) % 128) := by
  have hmod : (col.toNat + off.toNat) &&& 0x7F = (col.toNat + off.toNat) % 128 :=
    Nat.and_two_pow_sub_one_eq_mod _ 7
  rw [ddramByte, hmod]
  rfl

theorem ddramCmd_ok {rows row off : Byte} (col : Byte) (h : Config.rowOffset (clampRow rows row) = some off) :
    ddramCmd rows col row = .ok (ddramByte col off) := by
  simp [ddramCmd, h]

theorem ddramCmd_pastTheTable {rows row : Byte} (col : Byte) (h : 4 ≤ clampRow rows row) :
    ddramCmd rows col row = .error .rowOffsetOutOfTable := by
  have hnone : Config.rowOffset (clampRow rows row) = none := by
    rw [rowOffset_eq_getElem?]
    exact List.getElem?_eq_none h
  simp [ddramCmd, hnone]

/-- Settles O23: a command whose operand evaluates to the DDRAM address byte. -/
theorem setCursorPositionSendsTheDdramAddress : Obligations.SetCursorPositionSendsTheDdramAddress := by
  intro s a bl rows col row off hr hrows hd hoff
  rw [← ddramByte_eq]
  have hentry : Config.rowOffset (clampRow rows row) = some off := (rowOffset_eq_getElem? _).trans hoff
  have hv : evalExpr (s.accept (.setCursorPosition col row)) (.ddramCmd col row) = .ok (ddramByte col off) :=
    (evalExpr_ddramCmd col row hrows).trans (ddramCmd_ok col hentry)
  exact completes_of_transfers hr rfl (by simp [Instr.reqCode]) nofun (transfers_cmd hv hr.backlight hr.addr) hd

/-- Settles O24: the request is taken, and the operand of its first `W` faults. -/
theorem setCursorPositionFaultsPastTheTable : Obligations.SetCursorPositionFaultsPastTheTable := by
  intro s a bl rows col row hr hrows hpast
  have hv : evalExpr (s.accept (.setCursorPosition col row)) (.ddramCmd col row) = .error .rowOffsetOutOfTable :=
    (evalExpr_ddramCmd col row hrows).trans (ddramCmd_pastTheTable col hpast)
  refine ⟨exec_readyIdle hr rfl (by simp [Instr.reqCode]), ?_⟩
  rw [step_micro (m := .w (highNibble (.ddramCmd col row) .command)) rfl rfl, micro,
    microW_error (evalExpr_highNibble_error .command hv)]
  rfl

end Sys2Proof.Machine
end

section
/-! PROOFS. The wire bytes of a text (R165, R195): its events join the session, and what they latch pairs after the
latches before them. -/

namespace Sys2Proof.Machine

/-- A request other than begin whose bus operations are all acknowledged and that completes adds its events to the
session (R195). -/
theorem session_request {tr pre evs : List Event} {done : Bool} {q : Instr} (h : session tr = some (done, pre))
    (hq : q ≠ .begin) (hevs : AllAcked evs) :
    session (tr ++ [.accept q] ++ evs ++ [.complete .ok]) =
      some (true, pre ++ ([.accept q] ++ evs ++ [.complete .ok])) := by
  have hbegin : isBegin (some q) = false :=
    Bool.eq_false_iff.2 fun hb => hq (Option.some.inj ((isBegin_iff _).1 hb))
  have haccept : (tr ++ [Event.accept q]).foldl sessionStep none = some (done, pre ++ [.accept q]) := by
    rw [List.foldl_append]
    exact (congrArg (sessionStep · (.accept q)) h).trans (by simp [sessionStep, hbegin])
  rw [session, List.foldl_append, List.foldl_append, haccept, foldl_sessionStep_acked hevs]
  simp [sessionStep]

theorem dataEvents_allAcked (a : BusAddr) (bl : Byte) (bytes : List Byte) : AllAcked (dataEvents a bl bytes) := by
  induction bytes with
  | nil => exact List.forall_mem_nil _
  | cons v bytes ih => exact allAcked_append.2 ⟨byteEvents_allAcked a v 0x01 bl, ih⟩

/-- Events that follow whole bytes add their own latches. -/
theorem WholeBytes.latches_append {a : BusAddr} {evs : List Event} (h : WholeBytes a evs) (evs' : List Event) :
    latches (evs ++ evs') = latches evs ++ latches evs' := by
  rw [latches, ackWrites_append, latchesOfWrites_append _ h.oneAddress h.enLow]
  rfl

/-- After an even number of latches, none is left to pair with the next (R195 item 3). -/
theorem pairUp_append (ys : List Latch) : ∀ {xs : List Latch}, xs.length % 2 = 0 →
    pairUp (xs ++ ys) = pairUp xs ++ pairUp ys
  | [], _ => rfl
  | [_], heven => by cases heven
  | _ :: _ :: xs, heven => congrArg (_ :: ·) (pairUp_append ys ((Nat.add_mod_right xs.length 2).symm.trans heven))

/-- The latches of a text pair to its bytes: by induction on the text, each byte's transfer gives its two nibbles. -/
theorem pairUp_latches_dataEvents {bl : Byte} (a : BusAddr) (bytes : List Byte) (hbl : bl = 0x08 ∨ bl = 0x00) :
    pairUp (latches (dataEvents a bl bytes ++ [.complete .ok])) = bytes.map fun v => { rs := true, value := v } := by
  induction bytes with
  | nil => rfl
  | cons v bytes ih =>
    have hlatches := latches_byteEvents a v .data (dataEvents a bl bytes ++ [.complete .ok]) hbl
    rw [dataEvents, List.append_assoc]
    refine (congrArg pairUp hlatches).trans ?_
    rw [pairUp_nibbles, ih]
    rfl

/-- Settles O55: the text's latches come after whole bytes, so they pair among themselves. -/
theorem textAppearsOnTheWire : Obligations.TextAppearsOnTheWire := by
  intro tr evs a bl bytes hs hw hbl
  have heven : ((latches evs).drop 4).length % 2 = 0 := by
    have hlen := hw.even
    have hinit := hw.initNibbles
    rw [List.length_drop]
    omega
  have htext := session_request (q := .writeText bytes) hs nofun (dataEvents_allAcked a bl bytes)
  have haccept : latches ([.accept (.writeText bytes)] ++ dataEvents a bl bytes ++ [.complete .ok]) =
      latches (dataEvents a bl bytes ++ [.complete .ok]) := rfl
  refine ⟨pairUp ((latches evs).drop 4), by simp [wireBytes, hs], ?_⟩
  simp only [wireBytes, htext]
  rw [hw.latches_append, haccept, List.drop_append_of_le_length hw.initNibbles, pairUp_append _ heven,
    pairUp_latches_dataEvents a bytes hbl]

end Sys2Proof.Machine
end

section
/-! PROOFS. What becomes of a request by PHASE and BUSY (R182, R214, R246): refused out of order, held while the block
is busy, and taken from the host's list while it is idle. -/

namespace Sys2Proof.Machine

/-! ### The rule by which a request is taken -/

/-- Every request but init and begin is taken by one rule (R182). -/
theorem exec_eq_takeRequest {q : Instr} (hreq : q.reqCode.isSome) (h0 : q.reqCode ≠ some 0) (hbegin : q ≠ .begin)
    (s : State) : exec q s = takeRequest q s := by
  cases q with
  | init => exact absurd rfl h0
  | begin => exact absurd rfl hbegin
  | w | t | b | set | pulseNibble | sendByte => cases hreq
  | _ => rfl

/-- A busy block holds whatever request it is given (R182, R246). -/
theorem exec_request_busy {q : Instr} {s : State} (hreq : q.reqCode.isSome) (hb : s.busy = true) :
    exec q s = .next (s.hold q) := by
  cases q with
  | w | t | b | set | pulseNibble | sendByte => cases hreq
  | _ => exact if_pos hb

section
variable {s : State} (hb : s.busy = false)
include hb

theorem exec_begin_refused (hp : s.phase = .unconfigured) : exec .begin s = .next (s.refuse .noConfig) := by
  have htake : exec .begin s = takeBegin .begin s := rfl
  simp [htake, takeBegin, hb, hp]

theorem takeRequest_unconfigured (q : Instr) (hp : s.phase = .unconfigured) :
    takeRequest q s = .next (s.refuse .noConfig) := by
  simp [takeRequest, hb, hp]

theorem takeRequest_configured (q : Instr) (hp : s.phase = .configured) :
    takeRequest q s = .next (s.refuse .notBegun) := by
  simp [takeRequest, hb, hp]

end

/-- Settles O14: init's rule, begin's rule and the rule of all other requests, in the phases that do not admit them. -/
theorem outOfOrderRequestsAreRefused : Obligations.OutOfOrderRequestsAreRefused := by
  refine fun s hb => ⟨fun hp a c r z => ?_, fun hp => ?_, fun q hreq h0 hbegin => ⟨fun hp => ?_, fun hp => ?_⟩⟩
  · rw [exec_init_refused a z hb hp, State.refuse_eq]
  · rw [exec_begin_refused hb hp, State.refuse_eq]
  · rw [exec_eq_takeRequest hreq h0 hbegin, takeRequest_unconfigured hb q hp, State.refuse_eq]
  · rw [exec_eq_takeRequest hreq h0 hbegin, takeRequest_configured hb q hp, State.refuse_eq]

/-- Settles O8: the idle turn runs the decoded request. -/
theorem stepRunsTheDecodedRequest : Obligations.StepRunsTheDecodedRequest :=
  fun _ _ _ _ => step_record

/-! ### The steps of a busy block -/

/-- A busy block's step is the end of a micro-operation or the completion of the request (R198). -/
theorem step_busy_cases {s t : State} (hb : s.busy = true) (h : step s = .next t) :
    (∃ m, micro m s = .advanced t) ∨ (∃ m, micro m s = .aborted t) ∨ t = s.finish := by
  cases move_of_step h with
  | advance _ _ hadv => exact .inl ⟨_, hadv⟩
  | abort _ _ habt => exact .inr (.inl ⟨_, habt⟩)
  | complete => exact .inr (.inr rfl)
  | idle hidle | refuse hidle | accept hidle | badInit hidle | init hidle => cases hb.symm.trans hidle

/-- Settles O12: the request is appended to the list, and no step of a busy block touches the list. -/
theorem busyBlockHoldsRequests : Obligations.BusyBlockHoldsRequests := by
  refine ⟨fun s q r hb hq => ?_, fun s t hb h => ?_⟩
  · have hreq : q.reqCode.isSome := by rw [← encode_isSome, hq]; rfl
    rw [exec_request_busy hreq hb, State.hold_request s hq]
  · obtain ⟨m, hadv⟩ | ⟨m, habt⟩ | rfl := step_busy_cases hb h
    · obtain ⟨-, -, -, -, -, -, -, -, hinbox, -⟩ := micro_advanced_frame hadv
      exact hinbox
    · obtain ⟨-, -, -, -, -, -, -, -, hinbox, -⟩ := micro_aborted_frame habt
      exact hinbox
    · rfl

/-- Settles O10: begin's own rule is the `if` on CUR_OP. -/
theorem stepCompletesAtTheEndOfTheProgram : Obligations.StepCompletesAtTheEndOfTheProgram := by
  intro s hb hu
  rw [step_finish hb hu, State.finish, ite_isBegin, ite_isBegin]

end Sys2Proof.Machine
end

section
/-! PROOFS. Single micro-operations that advance (R183, R184, R186), and where an abort leaves the block (R187, R192,
R217). -/

namespace Sys2Proof.Machine

/-! ### Micro-operations that advance -/

/-- Settles O28: the write's end with an acknowledgement, by `busWrite_ack`. -/
theorem expanderWriteAcknowledged : Obligations.ExpanderWriteAcknowledged := by
  intro s x v bl a hx hbl ha hd
  have hw : exec (.w x) s = (microW x s).answer := rfl
  rw [hw, microW_ok hx hbl ha, busWrite_ack a _ hd]
  rfl

/-- Settles O31: the wait as an instruction is the micro-operation, which has one end. -/
theorem waitRecordsItsMinimum : Obligations.WaitRecordsItsMinimum :=
  fun s us => exec_toInstr (.t us) s

/-- Settles O33: the operand has a value, so the micro-operation writes it. -/
theorem setWritesItsRegister : Obligations.SetWritesItsRegister := by
  intro s e v he
  have hset (x : SetReg) : exec (.set x e) s = .next (s.setFlag x v).advance := by
    have hexec : exec (.set x e) s = (microSet x e s).answer := rfl
    rw [hexec, microSet_ok he]
    rfl
  exact ⟨hset .ctrl, hset .entry, hset .bl⟩

/-! ### Aborts -/

/-- A nibble transfer up to its enable pulse: two acknowledged writes, and the expander at EN = 1 (R187). -/
theorem microRun_nibble_pulse {s : State} {n : Expr} {n8 bl : Byte} {a : BusAddr} (hn : evalExpr s n = .ok n8)
    (hb : s.bl = some bl) (ha : s.cfgAddr = some a) (hd : s.nextAcks 2) :
    microRun [.w n, .w (.or n (.lit 0x04)), .t 1] s =
      .advanced (s.did 2 [.write a (n8 ||| bl) .ack, .write a (n8 ||| 0x04 ||| bl) .ack, .wait 1]
        (.known (n8 ||| 0x04 ||| bl)) 3) := by
  obtain ⟨hfirst, hsecond⟩ := (nextAcks_add 1 1 s).1 hd
  let u : State := s.did 1 [.write a (n8 ||| bl) .ack] (.known (n8 ||| bl)) 1
  have hor : evalExpr u (.or n (.lit 0x04)) = .ok (n8 ||| 0x04) := by
    rw [did_evalExpr]
    simp [evalExpr, hn]
  have hhigh := micro_w_did (s := u) hor hb ha ((did_nextAcks ..).2 hsecond)
  simp only [microRun, micro_w_did hn hb ha hfirst, u, hhigh, micro_t_did, did_did]
  rfl

/-- A failed write whose byte does not reach the expander aborts the request and leaves the expander as it was (R192,
R194). -/
theorem micro_w_lost {s : State} {x : Expr} {v bl : Byte} {a : BusAddr} {kind : ErrKind} (hx : evalExpr s x = .ok v)
    (hb : s.bl = some bl) (ha : s.cfgAddr = some a) (hd : s.nextDraw = { answer := .err kind, taken := false }) :
    ∃ t, micro (.w x) s = .aborted t ∧ t.expOut = s.expOut ∧ t.upc = s.upc ∧ t.busy = false ∧ t.link = .suspect ∧
      t.result = some (.transportError { kind := kind, upc := s.upc, byte := some (v ||| bl) }) := by
  refine ⟨_, (microW_ok hx hb ha).trans (busWrite_err a _ (congrArg BusDraw.answer hd)), ?_⟩
  simp [hd]

/-- Settles O37: the fourth micro-operation of the nibble transfer fails, and the expander keeps the byte of the pulse
before it. -/
theorem failedEnableLowLeavesEnableHigh : Obligations.FailedEnableLowLeavesEnableHigh := by
  intro s n n8 bl a kind hn hb ha hd hdraw
  let u : State := s.did 2 [.write a (n8 ||| bl) .ack, .write a (n8 ||| 0x04 ||| bl) .ack, .wait 1]
    (.known (n8 ||| 0x04 ||| bl)) 3
  have hlow : evalExpr u (.and n (.lit 0xFB)) = .ok (n8 &&& 0xFB) := by
    rw [did_evalExpr]
    simp [evalExpr, hn]
  have hfail : u.nextDraw = { answer := .err kind, taken := false } :=
    (nextDraw_congr (s := s.afterDraws 2) rfl rfl).trans hdraw
  obtain ⟨t, habort, hend⟩ := micro_w_lost hlow hb ha hfail
  have hrun : exec (.pulseNibble n) s = (microRun [.w (.and n (.lit 0xFB)), .t 50] u).answer :=
    congrArg MicroOutcome.answer (microRun_append (microRun_nibble_pulse hn hb ha hd))
  refine ⟨t, ?_, hend⟩
  rw [hrun, microRun, habort]
  rfl

/-- Settles O38: the micro-operations before the failing one are as many steps, and the abort is the step after them. -/
theorem abortIsPrecise : Obligations.AbortIsPrecise := by
  intro s t u pre m post hb hu hprog hpre habt
  have hdrop : s.uprog.drop s.upc = pre ++ m :: post := by rw [hu, hprog]; rfl
  obtain ⟨-, -, -, htprog, htupc⟩ := run_microRun_advanced hb hdrop hpre
  obtain ⟨hidle, -, huprog, huupc, -⟩ := micro_aborted_frame habt
  refine ⟨?_, ?_, huprog.trans htprog, hidle⟩
  · rw [run_succ_microRun_advanced hb hdrop hpre, habt]
    rfl
  · rw [huupc, htupc, hu, Nat.zero_add]

end Sys2Proof.Machine
end

section
/-! PROOFS. The wire after a failed write (R195 item 4, R196): no wire bytes until a begin completes, and the latches up
to the failed write by the kind of that write. -/

namespace Sys2Proof.Machine

/-! ### Sessions without wire bytes -/

/-- Outside a session only the acceptance of begin starts one. -/
theorem sessionStep_none {e : Event} (he : e ≠ .accept .begin) : sessionStep none e = none := by
  cases e with
  | accept q =>
    have hbegin : isBegin (some q) ≠ true := fun h => he (congrArg Event.accept (Option.some.inj ((isBegin_iff _).1 h)))
    rw [sessionStep, if_neg hbegin]
    rfl
  | busInit o | write _ _ o => cases o <;> rfl
  | wait _ => rfl
  | complete r => cases r <;> rfl

theorem foldl_sessionStep_none {evs : List Event} (h : Event.accept .begin ∉ evs) :
    evs.foldl sessionStep none = none := by
  induction evs with
  | nil => rfl
  | cons e evs ih =>
    obtain ⟨he, hevs⟩ := List.ne_and_not_mem_of_not_mem_cons h
    rw [List.foldl_cons, sessionStep_none (Ne.symm he)]
    exact ih hevs

/-- Only a completion with OK makes a session one whose begin has completed. -/
theorem sessionStep_not_completed {x : Option (Bool × List Event)} {e : Event} (he : e ≠ .complete .ok)
    (hx : ∀ evs, x ≠ some (true, evs)) (evs : List Event) : sessionStep x e ≠ some (true, evs) := by
  have hjoin : x.map (fun p => (p.1, p.2 ++ [e])) ≠ some (true, evs) := by
    intro h
    obtain ⟨⟨done, pre⟩, hp, heq⟩ := Option.map_eq_some_iff.1 h
    obtain rfl : done = true := congrArg Prod.fst heq
    exact hx pre hp
  cases e with
  | accept q =>
    rw [sessionStep]
    split
    · simp
    · exact hjoin
  | busInit o | write _ _ o =>
    cases o with
    | ack => exact hjoin
    | err => exact nofun
  | wait _ => exact hjoin
  | complete r =>
    cases r with
    | ok => exact absurd rfl he
    | transportError _ => exact nofun
    | configError _ => exact hjoin

theorem foldl_sessionStep_not_completed {evs : List Event} (h : Event.complete .ok ∉ evs)
    {x : Option (Bool × List Event)} (hx : ∀ pre, x ≠ some (true, pre)) (pre : List Event) :
    evs.foldl sessionStep x ≠ some (true, pre) := by
  induction evs generalizing x with
  | nil => exact hx pre
  | cons e evs ih =>
    obtain ⟨he, hevs⟩ := List.ne_and_not_mem_of_not_mem_cons h
    exact ih hevs (sessionStep_not_completed (Ne.symm he) hx)

theorem wireBytes_eq_none {tr : List Event} (h : ∀ evs, session tr ≠ some (true, evs)) : wireBytes tr = none := by
  rw [wireBytes]
  split
  · next evs heq => exact absurd heq (h evs)
  · rfl
  · rfl

/-- After a failed write there is no session until the next begin is accepted. -/
theorem wireBytes_failed_write {evs : List Event} (tr : List Event) (a : BusAddr) (v : Byte) (k : ErrKind)
    (h : Event.accept .begin ∉ evs) : wireBytes (tr ++ .write a v (.err k) :: evs) = none := by
  have hnone : session (tr ++ .write a v (.err k) :: evs) = none := by
    rw [session, List.foldl_append]
    exact foldl_sessionStep_none h
  exact wireBytes_eq_none (by simp [hnone])

/-- A begin that has been accepted and has not completed has no wire bytes. -/
theorem wireBytes_begin_running {evs : List Event} (tr : List Event) (h : Event.complete .ok ∉ evs) :
    wireBytes (tr ++ .accept .begin :: evs) = none := by
  refine wireBytes_eq_none fun pre => ?_
  rw [session, List.foldl_append]
  exact foldl_sessionStep_not_completed (x := some (false, [])) h (by simp) pre

theorem wireBytes_transportError (tr : List Event) (info : TransportInfo) :
    wireBytes (tr ++ [.complete (.transportError info)]) = none := by
  have hnone : session (tr ++ [.complete (.transportError info)]) = none := by
    rw [session, List.foldl_append]
    rfl
  exact wireBytes_eq_none (by simp [hnone])

/-- An abort ends the trace with the completion that reports it (R192). -/
theorem micro_aborted_trace {m : Uop} {s t : State} (h : micro m s = .aborted t) :
    ∃ tr info, t.trace = tr ++ [.complete (.transportError info)] := by
  obtain ⟨x, v, bl, a, k, -, -, -, -, -, rfl⟩ | ⟨k, -, -, rfl⟩ := micro_aborted h
  · exact ⟨_, _, rfl⟩
  · exact ⟨_, _, rfl⟩

/-- A busy block that falls idle without OK has aborted, and leaves no wire bytes. -/
theorem wireBytes_aborted {s t : State} (hb : s.busy = true) (h : step s = .next t) (hidle : t.busy = false)
    (hres : t.result ≠ some .ok) : wireBytes t.trace = none := by
  obtain ⟨m, hadv⟩ | ⟨m, habt⟩ | rfl := step_busy_cases hb h
  · have hbusy : t.busy = true := (micro_advanced_frame hadv).1.trans hb
    cases hbusy.symm.trans hidle
  · obtain ⟨tr, info, htrace⟩ := micro_aborted_trace habt
    rw [htrace]
    exact wireBytes_transportError tr info
  · exact absurd rfl hres

/-! ### The latches up to a failed write -/

section
variable {pre : List Event} {a : BusAddr} {u v : Byte}

/-- Whether the nibble of a pulse cut short latched is the free value's to say (R195 item 4). -/
theorem latchesUpToError_cut (h : cutPulse pre a v = some u) :
    latchesUpToError pre a v = latches pre ++ if Config.freeLatch pre.length then [latchOf u] else [] := by
  rw [latchesUpToError, cutLatch, h]
  cases Config.freeLatch pre.length <;> rfl

theorem latchesUpToError_uncut (h : cutPulse pre a v = none) : latchesUpToError pre a v = latches pre := by
  rw [latchesUpToError, cutLatch, h]
  exact List.append_nil _

theorem cutPulse_enHigh (pre : List Event) (a : BusAddr) (h : enHigh v = true) : cutPulse pre a v = some v :=
  if_pos h

theorem cutPulse_enLow_after_enHigh (hv : enHigh v = false) (hlast : lastAck a pre = some u) (hu : enHigh u = true) :
    cutPulse pre a v = some u := by
  simp [cutPulse, hv, hlast, hu]

theorem cutPulse_enLow_after_enLow (hv : enHigh v = false) (hlast : ∀ u, lastAck a pre = some u → enHigh u = false) :
    cutPulse pre a v = none := by
  cases hu : lastAck a pre with
  | none => simp [cutPulse, hv, hu]
  | some u => simp [cutPulse, hv, hu, hlast u hu]

end

/-- Settles O60: an error answer ends the session and only a completed begin gives wire bytes again; the failed write is
the EN-high one of a pulse, the EN-low one after it, or one outside a pulse. -/
theorem failedWriteEndsTheWireBytes : Obligations.FailedWriteEndsTheWireBytes := by
  refine ⟨fun tr evs a v k => wireBytes_failed_write tr a v k, fun tr evs after a v k h => ?_,
    fun s t => wireBytes_aborted, fun pre a v hv => latchesUpToError_cut (cutPulse_enHigh pre a hv),
    fun pre a v u hv hlast hu => latchesUpToError_cut (cutPulse_enLow_after_enHigh hv hlast hu),
    fun pre a v hv hlast => latchesUpToError_uncut (cutPulse_enLow_after_enLow hv hlast)⟩
  have hshape : tr ++ .write a v (.err k) :: (evs ++ .accept .begin :: after) =
      (tr ++ .write a v (.err k) :: evs) ++ .accept .begin :: after := by simp
  rw [hshape]
  exact wireBytes_begin_running _ h

end Sys2Proof.Machine
end

section
/-! PROOFS. What writes the refusal mark (R214), and the step with nothing to do (R230, R242). -/

namespace Sys2Proof.Machine

/-- A step leaves the refusal mark alone, or refuses the record it takes (R214). -/
theorem step_keeps_refusal_or_refuses {s t : State} (h : step s = .next t) :
    t.refusal = s.refusal ∨
    (s.busy = false ∧ ∃ why, t = { s with inbox := s.inbox.tail, refusal := some (s.refusal.getD why) }) := by
  cases move_of_step h with
  | advance _ _ hadv =>
    obtain ⟨-, -, -, -, -, -, -, hmark, -⟩ := micro_advanced_frame hadv
    exact .inl hmark
  | abort _ _ habt =>
    obtain ⟨-, -, -, -, -, -, -, hmark, -⟩ := micro_aborted_frame habt
    exact .inl hmark
  | refuse hb hi why => exact .inr ⟨hb, why, by rw [State.refuse_eq, hi, List.tail_cons]⟩
  | complete | idle | accept | badInit | init => exact .inl rfl

/-- Settles O50: a refusal keeps a mark that is set and otherwise sets its own; no other move writes the mark. -/
theorem refusalMarkIsSetAloneAndKept : Obligations.RefusalMarkIsSetAloneAndKept := by
  intro s t h
  obtain hkept | ⟨hb, why, rfl⟩ := step_keeps_refusal_or_refuses h
  · exact ⟨fun r hr => hkept.trans hr, fun r hnone hr => by cases hr.symm.trans (hkept.trans hnone)⟩
  · refine ⟨fun r hr => congrArg some (by rw [hr, Option.getD_some]), fun r hnone hr => ⟨hb, ?_⟩⟩
    obtain rfl : why = r := by simpa [hnone] using hr
    rw [hnone, Option.getD_none]

/-- Settles O11: the idle turn with an empty list is the idle step. -/
theorem idleBlockStaysIdle : Obligations.IdleBlockStaysIdle :=
  fun _ => step_idle

end Sys2Proof.Machine
end

section
/-! PROOFS. What micro-programs cost: their micro-operations of each kind and their least duration (R103, R253), from
the costs of their parts. -/

namespace Sys2Proof.Machine

/-- The counts of two micro-programs together. -/
def UopCount.plus (c d : UopCount) : UopCount := ⟨c.w + d.w, c.t + d.t, c.b + d.b, c.set + d.set⟩

theorem UopCount.zero_plus (c : UopCount) : UopCount.plus ⟨0, 0, 0, 0⟩ c = c := by simp [UopCount.plus]

theorem UopCount.add_plus (c d : UopCount) (m : Uop) : (c.add m).plus d = (c.plus d).add m := by
  cases m <;> simp [UopCount.add, UopCount.plus, Nat.add_right_comm]

theorem countUops_append (xs ys : List Uop) : countUops (xs ++ ys) = (countUops xs).plus (countUops ys) := by
  induction xs with
  | nil => exact (UopCount.zero_plus _).symm
  | cons m xs ih => rw [List.cons_append, countUops, ih, countUops, UopCount.add_plus]

/-- The micro-program has these counts and this minimum duration: a row of R253's table. -/
def Costs (p : List Uop) (c : UopCount) (us : Nat) : Prop := countUops p = c ∧ progMinWait p = us

theorem Costs.append {p q : List Uop} {c d : UopCount} {us vs : Nat} (hp : Costs p c us) (hq : Costs q d vs) :
    Costs (p ++ q) (c.plus d) (us + vs) := by
  obtain ⟨rfl, rfl⟩ := hp
  obtain ⟨rfl, rfl⟩ := hq
  exact ⟨countUops_append p q, progMinWait_append p q⟩

theorem Costs.cons {p : List Uop} {c : UopCount} {us : Nat} (m : Uop) (hp : Costs p c us) :
    Costs (m :: p) (c.add m) (m.minWait + us) := by
  obtain ⟨rfl, rfl⟩ := hp
  exact ⟨rfl, rfl⟩

theorem costs_nil : Costs [] ⟨0, 0, 0, 0⟩ 0 := ⟨rfl, rfl⟩

theorem nibbleProg_costs (n : Expr) : Costs (nibbleProg n) ⟨3, 2, 0, 0⟩ 51 := ⟨rfl, rfl⟩

/-- A byte is two nibbles (R188). -/
theorem byteProg_costs (v : Expr) (m : Mode) : Costs (byteProg v m) ⟨6, 4, 0, 0⟩ 102 :=
  (nibbleProg_costs _).append (nibbleProg_costs _)

theorem cmd_costs (v : Expr) : Costs (cmd v) ⟨6, 4, 0, 0⟩ 102 := byteProg_costs v .command

/-- A `SET` and then a command (R132–R136). -/
theorem setThenCmd_costs (x : SetReg) (e v : Expr) : Costs (.set x e :: cmd v) ⟨6, 4, 0, 1⟩ 102 :=
  (cmd_costs v).cons (.set x e)

/-- A command and then the long wait (R130, R131). -/
theorem cmdThenWait_costs (v : Expr) : Costs (cmd v ++ [.t Config.longCommandUs]) ⟨6, 5, 0, 0⟩ 2102 :=
  (cmd_costs v).append (costs_nil.cons _)

/-- One byte transfer for each data byte (R163, R165). -/
theorem progData_costs (bytes : List Byte) :
    Costs (progData bytes) ⟨6 * bytes.length, 4 * bytes.length, 0, 0⟩ (102 * bytes.length) := by
  induction bytes with
  | nil => exact costs_nil
  | cons v rest ih =>
    rw [List.length_cons, Nat.mul_succ, Nat.mul_succ, Nat.mul_succ, Nat.add_comm (6 * _), Nat.add_comm (4 * _),
      Nat.add_comm (102 * _)]
    exact (byteProg_costs (.lit v) .data).append ih

/-- A command with the CGRAM address and eight data bytes (R163). -/
theorem progDefineGlyph_costs (slot : BitVec 3) (p : Glyph) : Costs (progDefineGlyph slot p) ⟨54, 36, 0, 0⟩ 918 := by
  have hlen : p.toList.length = 8 := rfl
  have hdata := progData_costs p.toList
  rw [hlen] at hdata
  exact ((cmd_costs (.lit (cgramCmd slot))).append hdata :)

/-- Step 5 of begin: three nibbles, each with its wait (R108). -/
theorem beginForce_costs : Costs beginForce ⟨9, 9, 0, 0⟩ 9303 := by
  have hnibble := nibbleProg_costs (.lit Config.initNibble3)
  have hwait (us : Nat) : Costs [.t us] ⟨0, 1, 0, 0⟩ us := costs_nil.cons (.t us)
  exact ((((hnibble.append (hwait _)).append hnibble).append (hwait _)).append hnibble).append (hwait _)

/-- The sum over the steps of begin (R103). -/
theorem progBegin_costs : Costs progBegin ⟨43, 35, 1, 2⟩ 1053864 := by
  have hwake : Costs beginWake ⟨1, 2, 1, 0⟩ 1040000 := ⟨rfl, rfl⟩
  have hinit := ((hwake.append beginForce_costs).append (nibbleProg_costs (.lit Config.initNibble2))).append
    (cmd_costs (.or (.lit Config.functionSet) (.reg .func)))
  have hcontrol : Costs beginControl ⟨6, 4, 0, 1⟩ 102 := setThenCmd_costs ..
  have hclear : Costs progClear ⟨6, 5, 0, 0⟩ 2102 := cmdThenWait_costs _
  have hentry : Costs beginEntry ⟨6, 4, 0, 1⟩ 102 := setThenCmd_costs ..
  have hhome : Costs progHome ⟨6, 5, 0, 0⟩ 2102 := cmdThenWait_costs _
  exact ((((hinit.append hcontrol).append hclear).append hentry).append hhome :)

/-- Settles O58: each request's micro-program is made of nibbles, bytes, `SET`s and long waits, and its cost is the sum
of theirs. -/
theorem requestsHaveTheirMinimumDurations : Obligations.RequestsHaveTheirMinimumDurations := by
  refine ⟨fun _ _ _ _ => costs_nil, nibbleProg_costs, byteProg_costs, progBegin_costs.1, progBegin_costs.2, ?_, ?_, ?_,
    fun _ => ⟨rfl, rfl⟩, progDefineGlyph_costs, progData_costs⟩
  · simp only [List.forall_mem_cons]
    exact ⟨cmdThenWait_costs _, cmdThenWait_costs _, nofun⟩
  · intro on
    simp only [List.forall_mem_cons]
    exact ⟨setThenCmd_costs .., setThenCmd_costs .., setThenCmd_costs .., setThenCmd_costs .., setThenCmd_costs .., nofun⟩
  · intro dir col row v
    simp only [List.forall_mem_cons]
    exact ⟨cmd_costs _, cmd_costs _, byteProg_costs .., nofun⟩

end Sys2Proof.Machine
end
